-- ==== Sys2Proof/Word.lean ====
section
/-! DEFINITION. The constants of 00_scope.md rule R4 and the word types of the block, whose widths rules R4, R6 and R7
fix. -/

namespace Sys2Proof

/-! ## Constants of rule R4 -/

/-- `C`: mailbox slots. -/
@[simp] abbrev Config.slots : Nat := 32
/-- `C_USABLE`: the most entries held at once. -/
@[simp] abbrev Config.usable : Nat := 31
/-- `CUR_BITS`: bits of a cursor. -/
@[simp] abbrev Config.curBits : Nat := 5
/-- `K_MOD`: log2 of the modulation segment size. -/
@[simp] abbrev Config.kMod : Nat := 15
/-- `K_PSTM`: log2 of the point-sequence segment size. -/
@[simp] abbrev Config.kPstm : Nat := 11
/-- `K_GSTM`: log2 of the gain-sequence segment size. -/
@[simp] abbrev Config.kGstm : Nat := 5
/-- `MOD_SAMPLES_PER_WORD`: modulation samples in a word. -/
@[simp] abbrev Config.modSamplesPerWord : Nat := 2
/-- `PSTM_WORDS`: words written per point sample. -/
@[simp] abbrev Config.pstmWords : Nat := 4
/-- `PSTM_STRIDE`: the word stride between point samples. -/
@[simp] abbrev Config.pstmStride : Nat := 8
/-- `PSTM_HEAD_WORDS`: Body words before the samples of a point-sequence head. -/
@[simp] abbrev Config.pstmHeadWords : Nat := 5
/-- `GSTM_SLOT_WORDS`: the words of a gain slot. -/
@[simp] abbrev Config.gstmSlotWords : Nat := 512
/-- `CYCLE_BITS`: the width of the cycle counters. -/
@[simp] abbrev Config.cycleBits : Nat := 32
/-- `MOD_HEAD_BYTES`: the most sample bytes of a modulation head. -/
@[simp] abbrev Config.modHeadBytes : Nat := 120
/-- `MOD_BODY_BYTES`: the most sample bytes of a modulation body, the whole payload. -/
@[simp] abbrev Config.modBodyBytes : Nat := 124
/-- `WINDOW_WORDS`: the words of a table window. -/
@[simp] abbrev Config.windowWords : Nat := 16384
/-- log2 of `WINDOW_WORDS`, the width of a window address (20_memory.md rule R68, 10_state.md rule R41). -/
@[simp] abbrev Config.windowBits : Nat := 14
/-- log2 of `GSTM_SLOT_WORDS`, the width of a word offset in a gain slot. -/
@[simp] abbrev Config.slotBits : Nat := 9
/-- Bytes of the payload before the samples of a modulation head: the 32-bit divisor (30_encoding.md rule R93). -/
@[simp] abbrev Config.modHeadOffset : Nat := Config.modBodyBytes - Config.modHeadBytes

/-! ## Word types -/

/-- A byte: `message_id`, a flag field, `size`, a payload byte (rule R6). -/
abbrev Byte := BitVec 8

/-- A device memory word, a Body element, the acknowledgment: 16 bits (rule R6). -/
abbrev Word := BitVec 16

/-- A cycle counter (rule R6). -/
abbrev Count := BitVec Config.cycleBits

/-- A mailbox cursor or its Gray code (10_state.md rule R26). -/
abbrev Cursor := BitVec Config.curBits

/-- A word address in a table window (rule R41). -/
abbrev WinAddr := BitVec Config.windowBits

/-- A word offset in a gain slot (44_gain_writer.md rule R212). -/
abbrev SlotOff := BitVec Config.slotBits

/-! ## Message ids and the sentinel of rule R4 -/

/-- `MSG_CLEAR`. -/
abbrev Config.msgClear : Byte := 0x00#8
/-- `MSG_RD_CPU_VERSION`. -/
abbrev Config.msgRdCpuVersion : Byte := 0x01#8
/-- `MSG_RD_FPGA_VERSION`. -/
abbrev Config.msgRdFpgaVersion : Byte := 0x03#8
/-- `MSG_RD_FPGA_FUNCTION`. -/
abbrev Config.msgRdFpgaFunction : Byte := 0x04#8
/-- `MSG_END`: the last id of the normal range. -/
abbrev Config.msgEnd : Byte := 0xF0#8
/-- `MOD_CYCLE_AFTER_CLEAR`. -/
abbrev Config.modCycleAfterClear : Count := 2#32

end Sys2Proof
end

