-- ==== Sys2Proof/Syntax.lean ====
section
/-! DEFINITION. The operations of the block, one constructor for each row of spec/opcode_table.json, the data they
carry, and the requests that select them at a port (30_encoding.md, 10_state.md sections 4 and 7). -/

namespace Sys2Proof

/-- Header of a frame: four byte fields and the 124-byte payload union (10_state.md rule R31, 30_encoding.md rule R91). -/
structure Header where
  /-- `message_id`, image byte 0. -/
  messageId : Byte
  /-- `fpga_control_flags`, image byte 1. -/
  fpgaFlags : Byte
  /-- `cpu_control_flags`, image byte 2. -/
  cpuFlags : Byte
  /-- `size`, image byte 3. -/
  size : Byte
  /-- `payload[0..123]`, image bytes 4 to 127. -/
  payload : Vector Byte Config.modBodyBytes
deriving DecidableEq, Repr, Inhabited

/-- A mailbox entry: the pair (Header, Body), the Body being `N` words (10_state.md rules R29 and R32).
That the list has `N` elements is checked by `Entry.wellFormed`. -/
structure Entry where
  /-- The Header. -/
  hdr : Header
  /-- The Body, transducer by transducer. -/
  body : List Word
deriving DecidableEq, Repr, Inhabited

/-- A pass image of the gain writer: pairs (word offset below 512, value) (44_gain_writer.md rule R212).
That the offsets ascend strictly is checked by `Pass.ascending`. -/
abbrev Pass := List (SlotOff × Word)

/-- The agents of the block (00_scope.md rule R11), the environment apart: it is what fills the input lists of State. -/
inductive Agent where
  /-- The arrival handler, domain P. -/
  | p
  /-- The periodic task, domain Q. -/
  | q
  /-- The synchroniser of the write cursor. -/
  | sw
  /-- The synchroniser of the read cursor. -/
  | sr
deriving DecidableEq, Repr

/-- One operation of the block: one constructor for each row of spec/opcode_table.json. -/
inductive Instr where
  /-- P.NOP (40_mailbox.md rule R132). -/
  | pNop
  /-- MBX.PUSH of the entry on `p_entry` (rule R123). -/
  | mbxPush (e : Entry)
  /-- MBX.CLR, the clear rendezvous (rule R128). -/
  | mbxClr
  /-- C.NOP (rule R132). -/
  | cNop
  /-- MBX.POP (rule R124). -/
  | mbxPop
  /-- SW, a step of the write-cursor synchroniser; `k` is the binary value whose code the sample gives, where the
  environment names it (rule R127, 30_encoding.md rule R110 `SW -> k`). -/
  | sw (k : Option Cursor)
  /-- SR, a step of the read-cursor synchroniser (rule R127, `SR -> k`). -/
  | sr (k : Option Cursor)
  /-- ENQ, one attempt of the retry loop on `p_stage` (rule R134). -/
  | enq
  /-- W.NOP (41_ring_writer.md rule R160). -/
  | wNop
  /-- SEG.BEGIN.MOD (42_mod_writer.md rule R181). -/
  | segBeginMod
  /-- SEG.WRITE.MOD of `n` samples from the words `src` (rule R182). -/
  | segWriteMod (n : BitVec 16) (src : List Word)
  /-- SEG.END.MOD (rule R183). -/
  | segEndMod
  /-- SEG.BEGIN.PSTM (43_point_writer.md rule R196). -/
  | segBeginPstm
  /-- SEG.WRITE.PSTM of `n` point samples from the words `src` (rule R197). -/
  | segWritePstm (n : BitVec 16) (src : List Word)
  /-- SEG.END.PSTM (rule R198). -/
  | segEndPstm
  /-- SEG.BEGIN.GSTM (44_gain_writer.md rule R211). -/
  | segBeginGstm
  /-- SEG.WRITE.GSTM of `m` logical cycles, one pass image each (rule R213). -/
  | segWriteGstm (m : BitVec 16) (passes : List Pass)
  /-- SEG.END.GSTM (rule R214). -/
  | segEndGstm
  /-- SEG.RESET (41_ring_writer.md rule R159). -/
  | segReset
  /-- ARRIVE of an inbound frame (45_dispatch_apply.md rule R236). -/
  | arrive (e : Entry)
  /-- F.DUPLICATE (rule R237). -/
  | fDuplicate
  /-- F.CLEAR, the global clear (rule R252). -/
  | fClear
  /-- F.RD_CPU_VERSION (rule R242). -/
  | fRdCpuVersion
  /-- F.RD_FPGA_VERSION (rule R243). -/
  | fRdFpgaVersion
  /-- F.RD_FPGA_FUNCTION (rule R244). -/
  | fRdFpgaFunction
  /-- F.RESERVED, message id `0xF0 + i` with `i` not 0 (rule R245). -/
  | fReserved (i : BitVec 4)
  /-- F.SYNCHRONIZE (rule R254). -/
  | fSynchronize
  /-- F.ENQUEUE (rule R246). -/
  | fEnqueue
  /-- ACK.UPDATE, the end of every ARRIVE (rule R255). -/
  | ackUpdate
  /-- ACK.EMIT, on every tick pulse (rule R256). -/
  | ackEmit
  /-- TICK (rule R240). -/
  | tick
  /-- A.WRITE_MOD (42_mod_writer.md rule R184). -/
  | aWriteMod
  /-- A.CONFIG_SILENCER (45_dispatch_apply.md rule R247). -/
  | aConfigSilencer
  /-- A.HEADER_ONLY (rule R250). -/
  | aHeaderOnly
  /-- A.MOD_DELAY (rule R249). -/
  | aModDelay
  /-- A.DRIVE (rule R248). -/
  | aDrive
  /-- A.POINT_STM (43_point_writer.md rule R199). -/
  | aPointStm
  /-- A.GAIN_STM (44_gain_writer.md rule R216). -/
  | aGainStm
  /-- G.PHASE_DUTY_FULL (rule R218). -/
  | gPhaseDutyFull
  /-- G.PHASE_FULL (rule R219). -/
  | gPhaseFull
  /-- G.PHASE_HALF (rule R220). -/
  | gPhaseHalf
deriving DecidableEq, Repr

/-- The operand port `w_src` of the ring writer: a sequence of words, or of pass images for channel GSTM
(30_encoding.md rule R102). -/
inductive WSrc where
  /-- A sequence of 16-bit words. -/
  | words (ws : List Word)
  /-- A sequence of pass images. -/
  | passes (ps : List Pass)
deriving DecidableEq, Repr

/-- What the environment puts on an input port of the block, as bits (10_state.md rule R42). -/
inductive Request where
  /-- A pulse of `frame_valid` with the frame's byte image on `frame_hdr`, `frame_body` (rule R92). -/
  | frame (image : List Byte)
  /-- A command byte on `pcmd` with the entry on `p_entry` (rule R100). -/
  | pcmd (w : Byte) (entry : Entry)
  /-- A pulse of `tick`. -/
  | tick
  /-- A command byte on `ccmd` (rule R101). -/
  | ccmd (w : Byte)
  /-- A command word on `wcmd` with its operand on `w_src` (rule R102). -/
  | wcmd (w : BitVec 32) (src : WSrc)
deriving DecidableEq, Repr

/-- Why a request at a port selects no operation (30_encoding.md rule R106; 93_implementation_defined.md U1 and U6). -/
inductive DecodeError where
  /-- A frame image is not `128 + 2 * N` bytes long (rules R92 and R108). -/
  | frameLength
  /-- A bit of `PCMD` marked zero is set (rule R100). -/
  | pcmdZeroBit
  /-- `PCMD.pop` = `11` (rule R100). -/
  | pcmdReserved
  /-- A bit of `CCMD` marked zero is set (rule R101). -/
  | ccmdZeroBit
  /-- A bit of `WCMD` marked zero is set (rule R102). -/
  | wcmdZeroBit
  /-- `WCMD.wop` is `101`, `110` or `111` (rule R102). -/
  | wcmdReservedOp
  /-- `WCMD.ch` = `11` (rule R102). -/
  | wcmdReservedChannel
  /-- `WCMD.n` or `WCMD.ch` is not 0 where rule R102 says it must be. -/
  | wcmdMustBeZero
  /-- `w_src` carries words for channel GSTM, or passes for another (rule R102). -/
  | operandKind
  /-- The port belongs to the other domain (60_exceptions.md rule R280, U1). -/
  | wrongAgent
deriving DecidableEq, Repr

end Sys2Proof
end

