-- ==== Sys2Proof/Config.lean ====
section
/-! DEFINITION. What an implementation fixes: the parameter record of 00_scope.md rule R5
(plain data, carried by State.cfg), the open functions of rule R5, and the free values (notes/assumptions). A constant
declared opaque here has no body: nothing can be proved of its value. -/

namespace Sys2Proof

/-! ## Parameters of rule R5 -/

/-- `LEGACY_STRIDE`: 1 or 2 words between transducers of a legacy gain slot (44_gain_writer.md rule R215). -/
inductive LegacyStride where
  /-- Consecutive words. -/
  | one
  /-- Every other word. -/
  | two
deriving DecidableEq, Repr

/-- The stride as a number of words. -/
def LegacyStride.toNat : LegacyStride → Nat
  | .one => 1
  | .two => 2

/-- `PDF_DUTY_FRAME_WRITES`: which half-word a non-legacy duty frame writes (rule R218, 90_conflicts.md C5). -/
inductive DutyFrameWrites where
  /-- The literal words of the source (the default). -/
  | phaseOnly
  /-- The other reading. -/
  | dutyOnly
deriving DecidableEq, Repr

/-- The data parameters of rule R5: the configuration record, an argument of every rule. -/
structure Params where
  /-- `N`, the number of transducers, the length of a Body. -/
  n : Nat
  /-- `FPGA_LEGACY_MODE`. -/
  fpgaLegacyMode : Word
  /-- `FPGA_FORCE_FAN`; nothing in the block reads it. -/
  fpgaForceFan : Word
  /-- `FPGA_OP_MODE`. -/
  fpgaOpMode : Word
  /-- `FPGA_STM_GAIN_MODE`. -/
  fpgaStmGainMode : Word
  /-- `FPGA_READS_FPGA_INFO`. -/
  fpgaReadsFpgaInfo : Word
  /-- `FPGA_SYNC`. -/
  fpgaSync : Word
  /-- `CPU_MOD`. -/
  cpuMod : Byte
  /-- `CPU_MOD_BEGIN`. -/
  cpuModBegin : Byte
  /-- `CPU_MOD_END`. -/
  cpuModEnd : Byte
  /-- `CPU_CONFIG_SILENCER`. -/
  cpuConfigSilencer : Byte
  /-- `CPU_CONFIG_SYNC`. -/
  cpuConfigSync : Byte
  /-- `CPU_WRITE_BODY`. -/
  cpuWriteBody : Byte
  /-- `CPU_STM_BEGIN`. -/
  cpuStmBegin : Byte
  /-- `CPU_STM_END`. -/
  cpuStmEnd : Byte
  /-- `CPU_IS_DUTY`. -/
  cpuIsDuty : Byte
  /-- `CPU_MOD_DELAY`. -/
  cpuModDelay : Byte
  /-- `A_CTL_REG`. -/
  aCtlReg : Word
  /-- `A_FPGA_INFO`. -/
  aFpgaInfo : Word
  /-- `A_VERSION`. -/
  aVersion : Word
  /-- `A_MOD_ADDR_OFFSET`, the modulation segment-base register. -/
  aModAddrOffset : Word
  /-- `A_MOD_CYCLE`, the modulation length register. -/
  aModCycle : Word
  /-- `A_MOD_FREQ_DIV_0`. -/
  aModFreqDiv0 : Word
  /-- `A_MOD_FREQ_DIV_1`. -/
  aModFreqDiv1 : Word
  /-- `A_STM_ADDR_OFFSET`, the streaming segment-base register. -/
  aStmAddrOffset : Word
  /-- `A_STM_CYCLE`, the streaming length register. -/
  aStmCycle : Word
  /-- `A_STM_FREQ_DIV_0`. -/
  aStmFreqDiv0 : Word
  /-- `A_STM_FREQ_DIV_1`. -/
  aStmFreqDiv1 : Word
  /-- `A_SOUND_SPEED_0`. -/
  aSoundSpeed0 : Word
  /-- `A_SOUND_SPEED_1`. -/
  aSoundSpeed1 : Word
  /-- `A_SILENT_STEP`. -/
  aSilentStep : Word
  /-- `A_SILENT_CYCLE`. -/
  aSilentCycle : Word
  /-- `A_CYCLE_BASE`, first word of the device's cycle table. -/
  aCycleBase : Word
  /-- `A_MOD_DELAY_BASE`, first word of the device's delay table. -/
  aModDelayBase : Word
  /-- `A_SYNC_TIME_0`, first word of the synchronisation timestamp. -/
  aSyncTime0 : Word
  /-- `GDM_PHASE_DUTY_FULL`. -/
  gdmPhaseDutyFull : Word
  /-- `GDM_PHASE_FULL`. -/
  gdmPhaseFull : Word
  /-- `GDM_PHASE_HALF`. -/
  gdmPhaseHalf : Word
  /-- `LEGACY_STRIDE`. -/
  legacyStride : LegacyStride
  /-- `PDF_DUTY_FRAME_WRITES`. -/
  pdfDutyFrameWrites : DutyFrameWrites
  /-- `DRV_WORDS`, the words of the drive table that the global clear fills with zero. -/
  drvWords : Nat
  /-- `SYNC_TIME_WORDS`. -/
  syncTimeWords : Nat
  /-- `SILENT_STEP_DEFAULT`. -/
  silentStepDefault : Word
  /-- `SILENT_CYCLE_DEFAULT`. -/
  silentCycleDefault : Word
  /-- `CPU_VERSION`. -/
  cpuVersion : Byte
  /-- `RETRY_LIMIT`; `none` is infinity, the default. -/
  retryLimit : Option Nat
deriving DecidableEq, Repr

/-- The members of `fpga_control_flags`. -/
def Params.fpgaMasks (c : Params) : List Word :=
  [c.fpgaLegacyMode, c.fpgaForceFan, c.fpgaOpMode, c.fpgaStmGainMode, c.fpgaReadsFpgaInfo, c.fpgaSync]

/-- The members of `cpu_control_flags`. -/
def Params.cpuMasks (c : Params) : List Byte :=
  [c.cpuMod, c.cpuModBegin, c.cpuModEnd, c.cpuConfigSilencer, c.cpuConfigSync, c.cpuWriteBody, c.cpuStmBegin,
   c.cpuStmEnd, c.cpuIsDuty, c.cpuModDelay]

/-- The Body members, which differ from one another (rule R5). -/
def Params.cpuBodyMasks (c : Params) : List Byte :=
  [c.cpuWriteBody, c.cpuStmBegin, c.cpuStmEnd, c.cpuIsDuty, c.cpuModDelay]

/-- The addresses of the single registers of region `CTRL` (rule R5). -/
def Params.singleRegs (c : Params) : List Word :=
  [c.aCtlReg, c.aFpgaInfo, c.aVersion, c.aModAddrOffset, c.aModCycle, c.aModFreqDiv0, c.aModFreqDiv1,
   c.aStmAddrOffset, c.aStmCycle, c.aStmFreqDiv0, c.aStmFreqDiv1, c.aSoundSpeed0, c.aSoundSpeed1, c.aSilentStep,
   c.aSilentCycle]

/-- The ranges of region `CTRL`: base and length (rule R5). -/
def Params.ranges (c : Params) : List (Nat × Nat) :=
  [(c.aCycleBase.toNat, c.n), (c.aModDelayBase.toNat, c.n), (c.aSyncTime0.toNat, c.syncTimeWords)]

/-- Two ranges share no word. Rule R5 gives `SYNC_TIME_WORDS` no lower bound: where it is 0 the timestamp's range is empty
and is disjoint from every other, wherever its base lies (DEDUCED, safe, notes/assumptions/25.md). -/
abbrev apart (r q : Nat × Nat) : Prop := r.2 = 0 ∨ q.2 = 0 ∨ r.1 + r.2 ≤ q.1 ∨ q.1 + q.2 ≤ r.1

/-- The constraints of rule R5, the only things a rule may assume of the parameters; that a range ends inside the
16-bit space of region `CTRL` is DEDUCED (its elements are word addresses of that region; notes/assumptions/25.md). -/
abbrev Params.Valid (c : Params) : Prop :=
  (5 ≤ c.n ∧ c.n ≤ 256) ∧
  ((∀ m ∈ c.fpgaMasks, ∃ i : Fin 16, m = 1#16 <<< i.val) ∧ c.fpgaMasks.Pairwise (· ≠ ·)) ∧
  (∀ m ∈ c.cpuMasks, ∃ i : Fin 8, m = 1#8 <<< i.val) ∧
  (∀ m ∈ c.cpuMasks.tail, c.cpuMod ≠ m) ∧
  (c.cpuBodyMasks.Pairwise (· ≠ ·) ∧ ∀ m ∈ c.cpuBodyMasks, m ≠ c.cpuModBegin ∧ m ≠ c.cpuModEnd) ∧
  c.singleRegs.Pairwise (· ≠ ·) ∧
  (c.ranges.Pairwise apart ∧ (∀ r ∈ c.ranges, r.1 + r.2 ≤ 65536) ∧
    ∀ a ∈ c.singleRegs, ∀ r ∈ c.ranges, apart (a.toNat, 1) r) ∧
  [c.gdmPhaseDutyFull, c.gdmPhaseFull, c.gdmPhaseHalf].Pairwise (· ≠ ·) ∧
  c.legacyStride.toNat * (c.n - 1) < Config.gstmSlotWords ∧
  (2 * c.n ≤ c.drvWords ∧ c.drvWords ≤ 65536)

/-- The parameter values State.reset carries: an illustration inside the constraints of rule R5, none of it the
spec's (DESIGN CHOICE, unsafe, notes/assumptions/1.md). Every statement ranges over State.cfg instead. -/
def Config.illustration : Params :=
  { n := 5
    fpgaLegacyMode := 0x0002#16, fpgaForceFan := 0x0001#16, fpgaOpMode := 0x0004#16, fpgaStmGainMode := 0x0008#16
    fpgaReadsFpgaInfo := 0x0010#16, fpgaSync := 0x0020#16
    cpuMod := 0x80#8, cpuModBegin := 0x40#8, cpuModEnd := 0x20#8, cpuConfigSilencer := 0x20#8
    cpuConfigSync := 0x40#8, cpuWriteBody := 0x01#8, cpuStmBegin := 0x02#8, cpuStmEnd := 0x04#8, cpuIsDuty := 0x08#8
    cpuModDelay := 0x10#8
    aCtlReg := 0x0000#16, aFpgaInfo := 0x0001#16, aVersion := 0x0002#16, aModAddrOffset := 0x0010#16
    aModCycle := 0x0011#16, aModFreqDiv0 := 0x0012#16, aModFreqDiv1 := 0x0013#16, aStmAddrOffset := 0x0020#16
    aStmCycle := 0x0021#16, aStmFreqDiv0 := 0x0022#16, aStmFreqDiv1 := 0x0023#16, aSoundSpeed0 := 0x0024#16
    aSoundSpeed1 := 0x0025#16, aSilentStep := 0x0030#16, aSilentCycle := 0x0031#16, aCycleBase := 0x0100#16
    aModDelayBase := 0x0200#16, aSyncTime0 := 0x0300#16
    gdmPhaseDutyFull := 0x0010#16, gdmPhaseFull := 0x0020#16, gdmPhaseHalf := 0x0030#16
    legacyStride := .two, pdfDutyFrameWrites := .phaseOnly
    drvWords := 10, syncTimeWords := 4, silentStepDefault := 0x0007#16, silentCycleDefault := 0x0700#16
    cpuVersion := 0x5A#8, retryLimit := none }

/-! ## Open functions of rule R5 -/

/-- `PHASE_OF`: the phase word of a non-legacy gain sample (44_gain_writer.md rule R218). -/
opaque Config.phaseOf : Word → Word
/-- `DUTY_OF`: the duty word of a non-legacy gain sample (rule R218). -/
opaque Config.dutyOf : Word → Word
/-- `DEFAULT_DUTY`: the duty word made from a cycle-table value (rule R219). -/
opaque Config.defaultDuty : Word → Word
/-- `DRIVE_WRITE`: the direct-drive writer's words (address in region `DRVT`, value), in order; every address is below
`DRV_WORDS` (45_dispatch_apply.md rule R248). -/
opaque Config.driveWrite : (c : Params) → Header → List Word → List (Fin c.drvWords × Word)
/-- `SYNC_TIME_OF`: word `j` of the synchronisation timestamp of a Header (rule R254). -/
opaque Config.syncTimeOf : Header → Nat → Word

/-! ## Free values. The first argument is State.draws, so that each operation draws afresh. -/

/-- A device word that the environment presents to a read and no input list names (20_memory.md rule R61). -/
opaque Config.deviceAnswer : Nat → Word
/-- How many places forward along its path a synchroniser's sample falls (40_mailbox.md rule R127). -/
opaque Config.syncPick : Nat → Nat
/-- A byte read beyond the payload, by its index (93_implementation_defined.md U5). -/
opaque Config.overreadByte : Nat → Nat → Byte
/-- A word read beyond a Body, by its index (U5), or beyond the cycle table. -/
opaque Config.overreadWord : Nat → Nat → Word
/-- Whether an element of the cycle table read during a synchronize is the old one (20_memory.md rule R79, U10). -/
opaque Config.raceOld : Nat → Nat → Bool
/-- The Header that storage place `j` holds after a power-on reset (10_state.md rules R23 and R50). -/
opaque Config.powerOnHeader : Nat → Nat → Header
/-- Word `i` of what place `j` holds after a power-on reset (rules R23 and R50). -/
opaque Config.powerOnWord : Nat → Nat → Nat → Word

end Sys2Proof
end

