-- ==== Sys2Proof/Machine/Bits.lean ====
section
/-! DEFINITION. The bit-field, byte-order and Gray-code helpers of 00_scope.md rule R10 and 40_mailbox.md section 2. -/

namespace Sys2Proof.Machine

/-- `gray5` (40_mailbox.md rule R121). -/
def gray5 (b : Cursor) : Cursor := b ^^^ (b >>> 1)

/-- `ungray5`, the inverse of `gray5`, bit by bit (rule R122). -/
def ungray5 (g : Cursor) : Cursor :=
  let b4 := g.getLsbD 4
  let b3 := b4 ^^ g.getLsbD 3
  let b2 := b3 ^^ g.getLsbD 2
  let b1 := b2 ^^ g.getLsbD 1
  let b0 := b1 ^^ g.getLsbD 0
  BitVec.ofBool b4 ++ BitVec.ofBool b3 ++ BitVec.ofBool b2 ++ BitVec.ofBool b1 ++ BitVec.ofBool b0

/-- `inc5` (00_scope.md rule R10). -/
def inc5 (b : Cursor) : Cursor := b + 1#5

/-- `dist(a, b)`: the advances that lead from cursor `a` to cursor `b` (40_mailbox.md section 2). -/
def dist (a b : Cursor) : Nat := (b - a).toNat

/-- `v` is in `path(a, b)`: it is met going forward from `a` to `b`, both included. -/
def onPath (a b v : Cursor) : Bool := dist a v ≤ dist a b

/-- `word_of(lo, hi)`: little-endian (20_memory.md rule R70). -/
def wordOf (lo hi : Byte) : Word := hi ++ lo

/-- The byte in bits 7:0 of a word. -/
def loByte (w : Word) : Byte := w.extractLsb' 0 8

/-- The byte in bits 15:8 of a word. -/
def hiByte (w : Word) : Byte := w.extractLsb' 8 8

/-- `u32_of(w0, w1)`: `w0` is the low half (rule R71). -/
def u32Of (w0 w1 : Word) : Count := w1 ++ w0

/-- The half of a 32-bit quantity written to the `_0` register of a pair (rule R71). -/
def loHalf (v : Count) : Word := v.extractLsb' 0 16

/-- The half of a 32-bit quantity written to the `_1` register of a pair (rule R71). -/
def hiHalf (v : Count) : Word := v.extractLsb' 16 16

/-- `trunc_16`: what a 16-bit device register keeps of a counter value (rule R69). -/
def trunc16 (v : Count) : Word := v.truncate 16

/-- `has(flags, M)` on `cpu_control_flags` (00_scope.md rule R10). -/
def hasCpu (flags m : Byte) : Bool := flags &&& m != 0#8

/-- `has(flags, M)` on `fpga_control_flags`, whose masks have 16 bits: the field is zero-extended first, so that a
member outside its eight bits is never carried by a frame (rule R10, 93_implementation_defined.md section 3). -/
def hasFpga (flags : Byte) (m : Word) : Bool := flags.zeroExtend 16 &&& m != 0#16

/-- Element `i` of a list, or what `free` gives beyond its end. -/
def elemOr {α : Type} (l : List α) (i : Nat) (free : Nat → α) : α := l.getD i (free i)

end Sys2Proof.Machine
end

