-- ==== Sys2Proof/WellFormed.lean ====
section
/-! DEFINITION. The well-formedness of operations: the conditions their operands meet before a port offers them. -/

namespace Sys2Proof

/-- A Body has one element for each transducer (10_state.md rule R32). -/
def Entry.wellFormed (c : Params) (e : Entry) : Bool := e.body.length == c.n

/-- The offsets of a pass ascend strictly (44_gain_writer.md rule R212). -/
def Pass.ascending : Pass → Bool
  | [] => true
  | [_] => true
  | x :: y :: rest => x.1.ult y.1 && Pass.ascending (y :: rest)

/-- The operands of an operation have the form its rule gives them: `N` words in an Entry (rule R32); as many words or
passes on `w_src` as the unit count asks for (rules R182, R197, R212); a reserved id above `0xF0` (rule R245). -/
def Instr.wellFormed (c : Params) : Instr → Bool
  | .pNop => true
  | .mbxPush e => e.wellFormed c
  | .mbxClr => true
  | .cNop => true
  | .mbxPop => true
  | .sw _ => true
  | .sr _ => true
  | .enq => true
  | .wNop => true
  | .segBeginMod => true
  | .segWriteMod n src => src.length == (n.toNat + (Config.modSamplesPerWord - 1)) / Config.modSamplesPerWord
  | .segEndMod => true
  | .segBeginPstm => true
  | .segWritePstm n src => src.length == Config.pstmWords * n.toNat
  | .segEndPstm => true
  | .segBeginGstm => true
  | .segWriteGstm m passes => passes.length == m.toNat && passes.all Pass.ascending
  | .segEndGstm => true
  | .segReset => true
  | .arrive e => e.wellFormed c
  | .fDuplicate => true
  | .fClear => true
  | .fRdCpuVersion => true
  | .fRdFpgaVersion => true
  | .fRdFpgaFunction => true
  | .fReserved i => i != 0#4
  | .fSynchronize => true
  | .fEnqueue => true
  | .ackUpdate => true
  | .ackEmit => true
  | .tick => true
  | .aWriteMod => true
  | .aConfigSilencer => true
  | .aHeaderOnly => true
  | .aModDelay => true
  | .aDrive => true
  | .aPointStm => true
  | .aGainStm => true
  | .gPhaseDutyFull => true
  | .gPhaseFull => true
  | .gPhaseHalf => true

end Sys2Proof
end

