-- ==== Sys2Proof/Decode.lean ====
section
/-! DEFINITION. Decoding and encoding: the port command formats of 30_encoding.md rules R100 to R102, the frame image
of rules R91 and R92, and the selections the operations make from a message id (rule R103), from the flags (rule R104)
and from the gain-data mode (44_gain_writer.md rule R217). -/

namespace Sys2Proof

open Sys2Proof.Machine

/-- The agent in whose domain the port of a request exists (10_state.md rule R42). -/
def Request.agent : Request → Agent
  | .frame _ => .p
  | .pcmd _ _ => .p
  | .tick => .q
  | .ccmd _ => .q
  | .wcmd _ _ => .q

/-- The agent that may issue an operation: the assignment of 60_exceptions.md rule R280. -/
def Instr.agent : Instr → Agent
  | .pNop => .p
  | .mbxPush _ => .p
  | .mbxClr => .p
  | .cNop => .q
  | .mbxPop => .q
  | .sw _ => .sw
  | .sr _ => .sr
  | .enq => .p
  | .wNop => .q
  | .segBeginMod => .q
  | .segWriteMod _ _ => .q
  | .segEndMod => .q
  | .segBeginPstm => .q
  | .segWritePstm _ _ => .q
  | .segEndPstm => .q
  | .segBeginGstm => .q
  | .segWriteGstm _ _ => .q
  | .segEndGstm => .q
  | .segReset => .q
  | .arrive _ => .p
  | .fDuplicate => .p
  | .fClear => .p
  | .fRdCpuVersion => .p
  | .fRdFpgaVersion => .p
  | .fRdFpgaFunction => .p
  | .fReserved _ => .p
  | .fSynchronize => .p
  | .fEnqueue => .p
  | .ackUpdate => .p
  | .ackEmit => .p
  | .tick => .q
  | .aWriteMod => .q
  | .aConfigSilencer => .q
  | .aHeaderOnly => .q
  | .aModDelay => .q
  | .aDrive => .q
  | .aPointStm => .q
  | .aGainStm => .q
  | .gPhaseDutyFull => .q
  | .gPhaseFull => .q
  | .gPhaseHalf => .q

/-! ## Layer-1 command words -/

/-- Decode `PCMD`: the zero bits first, then `pop` (30_encoding.md rules R100 and R105). -/
def decodePcmd (w : Byte) (e : Entry) : Except DecodeError Instr :=
  if w.extractLsb' 2 6 ≠ 0#6 then .error .pcmdZeroBit
  else match (w.extractLsb' 0 2).toNat with
    | 0 => .ok .pNop
    | 1 => .ok (.mbxPush e)
    | 2 => .ok .mbxClr
    | _ => .error .pcmdReserved

/-- Decode `CCMD` (rules R101 and R105). -/
def decodeCcmd (w : Byte) : Except DecodeError Instr :=
  if w.extractLsb' 1 7 ≠ 0#7 then .error .ccmdZeroBit
  else if w.extractLsb' 0 1 = 0#1 then .ok .cNop else .ok .mbxPop

/-- The word sequence on `w_src`. -/
def WSrc.toWords : WSrc → Except DecodeError (List Word)
  | .words ws => .ok ws
  | .passes _ => .error .operandKind

/-- The passes on `w_src`. -/
def WSrc.toPasses : WSrc → Except DecodeError (List Pass)
  | .words _ => .error .operandKind
  | .passes ps => .ok ps

/-- Decode `WCMD` with its operand: the zero bits, then (`wop`, `ch`), then the fields that must be 0 (rules R102 and
R105). -/
def decodeWcmd (w : BitVec 32) (src : WSrc) : Except DecodeError Instr :=
  let wop := (w.extractLsb' 0 3).toNat
  let ch := (w.extractLsb' 3 2).toNat
  let n := w.extractLsb' 8 16
  if w.extractLsb' 5 3 ≠ 0#3 ∨ w.extractLsb' 24 8 ≠ 0#8 then .error .wcmdZeroBit
  else if 5 ≤ wop then .error .wcmdReservedOp
  else if ch = 3 then .error .wcmdReservedChannel
  else if (wop = 0 ∨ wop = 4) ∧ ch ≠ 0 then .error .wcmdMustBeZero
  else if wop ≠ 2 ∧ n ≠ 0#16 then .error .wcmdMustBeZero
  else match wop, ch with
    | 0, _ => .ok .wNop
    | 1, 0 => .ok .segBeginMod
    | 1, 1 => .ok .segBeginPstm
    | 1, _ => .ok .segBeginGstm
    | 2, 0 => src.toWords.map (.segWriteMod n)
    | 2, 1 => src.toWords.map (.segWritePstm n)
    | 2, _ => src.toPasses.map (.segWriteGstm n)
    | 3, 0 => .ok .segEndMod
    | 3, 1 => .ok .segEndPstm
    | 3, _ => .ok .segEndGstm
    | _, _ => .ok .segReset

/-! ## Frames -/

/-- The words of a byte sequence, the byte at the lower index in bits 7:0 (`words_of`, 00_scope.md rule R10). -/
def wordsOf : List Byte → List Word
  | lo :: hi :: rest => wordOf lo hi :: wordsOf rest
  | _ => []

/-- The Header and the bytes after it (30_encoding.md rule R91). -/
def parseHeader : List Byte → Option (Header × List Byte)
  | id :: f :: c :: sz :: rest =>
    if h : (rest.take Config.modBodyBytes).toArray.size = Config.modBodyBytes then
      some
        ({ messageId := id, fpgaFlags := f, cpuFlags := c, size := sz
           payload := ⟨(rest.take Config.modBodyBytes).toArray, h⟩ },
          rest.drop Config.modBodyBytes)
    else none
  | _ => none

/-- The bytes of a frame image: four fields, the payload, two for each Body word (rules R91 and R92). -/
abbrev imageBytes (c : Params) : Nat := 4 + Config.modBodyBytes + 2 * c.n

/-- Decode a frame image: `128 + 2 * N` bytes (rules R91, R92, R108). -/
def decodeFrame (c : Params) (image : List Byte) : Except DecodeError Instr :=
  if image.length = imageBytes c then
    match parseHeader image with
    | some (h, rest) => .ok (.arrive { hdr := h, body := wordsOf rest })
    | none => .error .frameLength
  else .error .frameLength

/-- Decode what the environment has put on a port of agent `who`; a port of the other domain does not exist there
(60_exceptions.md rule R280). -/
def decodeRequest (c : Params) (who : Agent) (r : Request) : Except DecodeError Instr :=
  if r.agent ≠ who then .error .wrongAgent
  else match r with
    | .frame image => decodeFrame c image
    | .pcmd w e => decodePcmd w e
    | .tick => .ok .tick
    | .ccmd w => decodeCcmd w
    | .wcmd w src => decodeWcmd w src

/-! ## Selections inside Layer 2 -/

/-- The command of a frame that is no duplicate: the source's switch on `message_id` (30_encoding.md rule R103,
45_dispatch_apply.md rule R236 step 3). -/
def commandOf (c : Params) (h : Header) : Instr :=
  if h.messageId = Config.msgClear then .fClear
  else if h.messageId = Config.msgRdCpuVersion then .fRdCpuVersion
  else if h.messageId = Config.msgRdFpgaVersion then .fRdFpgaVersion
  else if h.messageId = Config.msgRdFpgaFunction then .fRdFpgaFunction
  else if Config.msgEnd.ult h.messageId then .fReserved (h.messageId.extractLsb' 0 4)
  else if !hasCpu h.cpuFlags c.cpuMod && hasCpu h.cpuFlags c.cpuConfigSync then .fSynchronize
  else .fEnqueue

/-- The command an ARRIVE selects: the duplicate check before the switch (rule R236 step 1, rule R237). -/
def dispatch (c : Params) (prevId : Byte) (h : Header) : Instr :=
  if h.messageId = prevId then .fDuplicate else commandOf c h

/-- Steps 3a and 3b of the apply-level map (30_encoding.md rule R104). -/
def headCommand (c : Params) (h : Header) : List Instr :=
  if hasCpu h.cpuFlags c.cpuMod then [.aWriteMod]
  else if hasCpu h.cpuFlags c.cpuConfigSilencer then [.aConfigSilencer]
  else []

/-- Steps 4 to 7 of the apply-level map (rule R104). -/
def bodyCommand (c : Params) (h : Header) : Instr :=
  if !hasCpu h.cpuFlags c.cpuWriteBody then .aHeaderOnly
  else if hasCpu h.cpuFlags c.cpuModDelay then .aModDelay
  else if !hasFpga h.fpgaFlags c.fpgaOpMode then .aDrive
  else if !hasFpga h.fpgaFlags c.fpgaStmGainMode then .aPointStm
  else .aGainStm

/-- The commands one TICK runs for a popped Header, in order (rule R104, 45_dispatch_apply.md rule R240). -/
def applyCommands (c : Params) (h : Header) : List Instr := headCommand c h ++ [bodyCommand c h]

/-- The pass builders of the gain writer. -/
inductive GainMode where
  /-- `phase_duty_full`, and every unrecognised value. -/
  | pdf
  /-- `phase_full`. -/
  | pf
  /-- `phase_half`. -/
  | ph
deriving DecidableEq, Repr

/-- `mode_of` (44_gain_writer.md rule R217). -/
def gainModeOf (c : Params) (g : Word) : GainMode :=
  if g = c.gdmPhaseFull then .pf else if g = c.gdmPhaseHalf then .ph else .pdf

/-! ## Encoding -/

/-- The bytes of words, low byte first (30_encoding.md rule R92). -/
def bytesOf : List Word → List Byte
  | [] => []
  | w :: ws => loByte w :: hiByte w :: bytesOf ws

/-- The image of an Entry (rules R91 and R92). -/
def encodeEntry (e : Entry) : List Byte :=
  e.hdr.messageId :: e.hdr.fpgaFlags :: e.hdr.cpuFlags :: e.hdr.size :: (e.hdr.payload.toList ++ bytesOf e.body)

/-- A `WCMD` word from its fields (rule R102). -/
def wcmdWord (n : BitVec 16) (ch : BitVec 2) (wop : BitVec 3) : BitVec 32 := 0#8 ++ n ++ 0#3 ++ ch ++ wop

/-- The request that selects an operation at a port; `none` where no port selects it (the rows of
spec/opcode_table.json whose format is none or GAINMODE, and the F.* and A.* rows, which a frame's fields select). -/
def encode : Instr → Option Request
  | .pNop => some (.pcmd 0x00#8 default)
  | .mbxPush e => some (.pcmd 0x01#8 e)
  | .mbxClr => some (.pcmd 0x02#8 default)
  | .cNop => some (.ccmd 0x00#8)
  | .mbxPop => some (.ccmd 0x01#8)
  | .sw _ => none
  | .sr _ => none
  | .enq => none
  | .wNop => some (.wcmd (wcmdWord 0 0 0) (.words []))
  | .segBeginMod => some (.wcmd (wcmdWord 0 0 1) (.words []))
  | .segWriteMod n src => some (.wcmd (wcmdWord n 0 2) (.words src))
  | .segEndMod => some (.wcmd (wcmdWord 0 0 3) (.words []))
  | .segBeginPstm => some (.wcmd (wcmdWord 0 1 1) (.words []))
  | .segWritePstm n src => some (.wcmd (wcmdWord n 1 2) (.words src))
  | .segEndPstm => some (.wcmd (wcmdWord 0 1 3) (.words []))
  | .segBeginGstm => some (.wcmd (wcmdWord 0 2 1) (.words []))
  | .segWriteGstm m passes => some (.wcmd (wcmdWord m 2 2) (.passes passes))
  | .segEndGstm => some (.wcmd (wcmdWord 0 2 3) (.words []))
  | .segReset => some (.wcmd (wcmdWord 0 0 4) (.words []))
  | .arrive e => some (.frame (encodeEntry e))
  | .fDuplicate => none
  | .fClear => none
  | .fRdCpuVersion => none
  | .fRdFpgaVersion => none
  | .fRdFpgaFunction => none
  | .fReserved _ => none
  | .fSynchronize => none
  | .fEnqueue => none
  | .ackUpdate => none
  | .ackEmit => none
  | .tick => some .tick
  | .aWriteMod => none
  | .aConfigSilencer => none
  | .aHeaderOnly => none
  | .aModDelay => none
  | .aDrive => none
  | .aPointStm => none
  | .aGainStm => none
  | .gPhaseDutyFull => none
  | .gPhaseFull => none
  | .gPhaseHalf => none

/-! ## Words of the opcode table -/

/-- The `k` bytes of a number, least significant first. -/
def bytesLE : Nat → Nat → List Byte
  | 0, _ => []
  | k + 1, w => BitVec.ofNat 8 w :: bytesLE k (w / 256)

/-- The all-zero operand of the count and channel that a `WCMD` word names. -/
def zeroSrc (w : BitVec 32) : WSrc :=
  let n := (w.extractLsb' 8 16).toNat
  match (w.extractLsb' 3 2).toNat, (w.extractLsb' 0 3).toNat with
  | 0, 2 => .words (List.replicate ((n + (Config.modSamplesPerWord - 1)) / Config.modSamplesPerWord) 0#16)
  | 1, 2 => .words (List.replicate (Config.pstmWords * n) 0#16)
  | 2, 2 => .passes (List.replicate n [])
  | _, _ => .words []

/-- A Header with a message id and every other byte 0. -/
def idHeader (id : Byte) : Header :=
  { messageId := id, fpgaFlags := 0#8, cpuFlags := 0#8, size := 0#8, payload := Vector.replicate Config.modBodyBytes 0#8 }

/-- The Entry of zeros: what the clear leaves in a slot (40_mailbox.md rule R128). -/
def zeroEntry (c : Params) : Entry := { hdr := idHeader 0#8, body := List.replicate c.n 0#16 }

/-- The frame image that starts with the bytes of `w` and is 0 above them. -/
def tableImage (c : Params) (w : Nat) : List Byte := bytesLE (imageBytes c) w

/-- The operation the decoders read from a word of spec/opcode_table.json. The table gives three formats of 8 bits, and
no bit that tells them apart (notes/assumptions/16.md): a byte that `PCMD` has is read there, any other is byte 0 of a
Header, the other bytes 0, of a frame that is no duplicate. 32 bits are a `WCMD` word, its operand zeros. -/
def decodeTableWord (nbits w : Nat) : Option Instr :=
  if nbits = 8 then
    match decodePcmd (BitVec.ofNat 8 w) (zeroEntry Config.illustration) with
    | .ok i => some i
    | .error _ =>
      match decodeFrame Config.illustration (tableImage Config.illustration w) with
      | .ok (.arrive e) => some (commandOf Config.illustration e.hdr)
      | _ => none
  else if nbits = 32 then
    (decodeWcmd (BitVec.ofNat 32 w) (zeroSrc (BitVec.ofNat 32 w))).toOption
  else if nbits ≤ 8 * imageBytes Config.illustration then
    (decodeFrame Config.illustration (tableImage Config.illustration w)).toOption
  else none

end Sys2Proof
end

