-- ==== Sys2Proof/Machine/State.lean ====
section
/-! DEFINITION. The state of the block as plain data, the reasons a step can stop, and the state after reset
(10_state.md; 70_reset_and_hazards.md rule R290). INVENTORY.md lists each field with its rule and reset value. -/

namespace Sys2Proof.Machine

/-- A channel of the ring writer (41_ring_writer.md rule R151). -/
inductive Channel where
  /-- Modulation. -/
  | mod
  /-- Point sequence. -/
  | pstm
  /-- Gain sequence. -/
  | gstm
deriving DecidableEq, Repr

/-- The domain whose memory port makes a request (20_memory.md rule R67). -/
inductive Domain where
  /-- Domain P. -/
  | p
  /-- Domain Q. -/
  | q
deriving DecidableEq, Repr

/-- A location as the block addresses it: a region and a word address of that region's width, so that every location
exists (10_state.md rules R37 and R41, 20_memory.md rule R76). -/
inductive Loc where
  /-- Region `CTRL`, 16-bit word address. -/
  | ctrl (a : BitVec 16)
  /-- Region `MODT`, a window address. -/
  | modt (wa : WinAddr)
  /-- Region `DRVT`, 16-bit word address. -/
  | drvt (a : BitVec 16)
  /-- Region `STMT`, 14-bit window address. -/
  | stmt (wa : WinAddr)
deriving DecidableEq, Repr

/-- One single-word request on a memory port (`b_op`, `b_rg`, `b_addr`, `b_wdata`, `b_rdata`; 10_state.md rule R42). -/
inductive BusReq where
  /-- A read and the answer the device gave. -/
  | read (d : Domain) (l : Loc) (answer : Word)
  /-- A write. -/
  | write (d : Domain) (l : Loc) (v : Word)
deriving DecidableEq, Repr

/-- The device memory: byte cells in canonical form, addresses strictly rising, no cell equal to what an unlisted
address reads as (Memory.wf). -/
abbrev Memory := List Host.Cell

/-- One turn of the schedule: who moves next, and what the environment settles about that move. -/
inductive Turn where
  /-- Agent P. -/
  | p
  /-- Agent Q. -/
  | q
  /-- The write-cursor synchroniser, with the sampled value where the environment names it. -/
  | sw (k : Option Cursor)
  /-- The read-cursor synchroniser. -/
  | sr (k : Option Cursor)
  /-- Domain P's re-emission of the acknowledgment for a tick pulse (45_dispatch_apply.md rule R256). -/
  | emit
  /-- The reset inputs: `pLow` is `p_rst_n` = 0, `qLow` is `q_rst_n` = 0 (70_reset_and_hazards.md rule R290). -/
  | rst (pLow qLow : Bool)
deriving DecidableEq, Repr

/-- The state of the block, of the device memory behind it as far as the block writes it, and of the environment's
inputs. -/
structure State where
  /-- The parameters of 00_scope.md rule R5; no step changes them. -/
  cfg : Params
  /-- `wr_bin` (rule R26), domain P. -/
  wrBin : Cursor
  /-- `wr_gray` (rule R27), domain P. -/
  wrGray : Cursor
  /-- `rd_gray_p`, the read cursor as domain P sees it (rule R28). -/
  rdGrayP : Cursor
  /-- `p_stage` (rule R30), domain P. -/
  pStage : Entry
  /-- `prev_id` (rule R36), domain P. -/
  prevId : Byte
  /-- `reads_info` (rule R36), domain P. -/
  readsInfo : Bool
  /-- `ack` (rule R36), domain P. -/
  ack : Word
  /-- `ack_out`, the acknowledgment port (rules R42 and R50). -/
  ackOut : Word
  /-- `p_ok`, the result port of MBX.PUSH (rules R25 and R42). -/
  pOk : Bool
  /-- `slot[0..31]` (rule R29). -/
  slots : Vector Entry Config.slots
  /-- `rd_bin` (rule R26), domain Q. -/
  rdBin : Cursor
  /-- `rd_gray` (rule R27), domain Q. -/
  rdGray : Cursor
  /-- `wr_gray_q`, the write cursor as domain Q sees it (rule R28). -/
  wrGrayQ : Cursor
  /-- `q_stage` (rule R30), domain Q. -/
  qStage : Entry
  /-- `q_busy` (rule R30), domain Q. -/
  qBusy : Bool
  /-- `q_valid` and `q_entry`, the result ports of MBX.POP: `some e` is `q_valid` = 1 (rules R25 and R42). -/
  qEntry : Option Entry
  /-- `mod_cycle` (rule R33), domain Q. -/
  modCycle : Count
  /-- `stm_cycle` (rule R33), domain Q. -/
  stmCycle : Count
  /-- `gain_mode` (rule R34), domain Q. -/
  gainMode : Word
  /-- `w_done`, the result port of the ring writer (rule R42). -/
  wDone : Bool
  /-- `cycle_tab[0..N-1]` (rule R35), shared. -/
  cycleTab : List Word
  /-- The device memory (20_memory.md rule R60). -/
  mem : Memory
  /-- The requests made on the memory ports, newest first: the model's record of them (93_implementation_defined.md
  U14). -/
  bus : List BusReq
  /-- The operations left of the ARRIVE in progress, next first (the model's own). -/
  pTodo : List Instr
  /-- The device writes that domain P's running command has still to make, next first (20_memory.md rule R67; the
  model's own). -/
  pPending : List (Loc × Word)
  /-- The reply of the ARRIVE in progress (rule R236, a transient). -/
  pReply : Option Word
  /-- The failed attempts of the retry loop in progress (`tries`, 40_mailbox.md rule R134). -/
  pTries : Nat
  /-- The operations left of the TICK in progress, next first (the model's own). -/
  qTodo : List Instr
  /-- The device writes that domain Q's running TICK or command has still to make, next first (rule R67; the model's own). -/
  qPending : List (Loc × Word)
  /-- `m` of the last pass builder (44_gain_writer.md rules R216 to R220, a transient). -/
  gainCount : BitVec 16
  /-- `passes` of the last pass builder (a transient, the operand on `w_src`). -/
  gainPasses : List Pass
  /-- The cycle table as it was before the synchronize of the ARRIVE in progress (20_memory.md rule R79). -/
  tabOld : Option (List Word)
  /-- Tick pulses carried to domain P and not yet answered by ACK.EMIT (45_dispatch_apply.md rule R256). -/
  emitDue : Nat
  /-- The counter that keeps draws of free values apart (the model's own). -/
  draws : Nat
  /-- The schedule: who moves in the next steps (00_scope.md rule R11). -/
  sched : List Turn
  /-- What the environment puts on domain P's ports, next first. -/
  pIn : List Request
  /-- What the environment puts on domain Q's ports, next first. -/
  qIn : List Request
  /-- The device's answers to the block's next reads, next first (20_memory.md rule R61). -/
  answers : List Word
deriving DecidableEq, Repr

/-- The fault marks of 60_exceptions.md rule R272, with the values it says to keep. -/
inductive Fault where
  /-- SEG.WRITE of more units than one segment boundary allows (41_ring_writer.md rule R161, 44_gain_writer.md rule
  R213). Safe: the hardware's behaviour is not promised. -/
  | segOverrun (ch : Channel) (cycle : Count) (n : BitVec 16)
  /-- SEG.WRITE.MOD of samples at an odd counter (42_mod_writer.md rule R186). Safe: not promised. -/
  | modOddOffset (cycle : Count) (n : BitVec 16)
  /-- ENQ with a finite `RETRY_LIMIT` that is reached (40_mailbox.md rule R134). Safe: not promised. -/
  | mailboxOverflow (wrBin rdGrayP : Cursor)
deriving DecidableEq, Repr

/-- Why a step is not taken: what the block does not offer (93_implementation_defined.md, treatment `refuse`). -/
inductive Refusal where
  /-- An operation without a meaning; raised by no arm of exec. Safe. -/
  | notModelled (mnemonic : String)
  /-- A request that selects no operation (30_encoding.md rule R106, U1, U6), raised by the fetch. Safe. -/
  | badRequest (e : DecodeError)
  /-- A request whose operand has not the form its rule gives it (Instr.wellFormed), raised by the fetch. Safe. -/
  | illFormed
  /-- SEG.RESET at the ring writer's port outside the clear rendezvous (41_ring_writer.md rule R159, 60_exceptions.md
  rule R280), raised by the fetch. Safe. -/
  | outsideRendezvous
  /-- A reset of one domain alone (70_reset_and_hazards.md rule R292, U8), raised by the fetch. Safe. -/
  | singleDomainReset
deriving DecidableEq, Repr

/-- The block after the power-on reset (10_state.md rule R50, 70_reset_and_hazards.md rule R290). The values rule R50
calls unspecified are 0 here (DESIGN CHOICE, unsafe, notes/assumptions/3.md), and no input is waiting. -/
def State.reset : State :=
  { cfg := Config.illustration
    wrBin := 0#5, wrGray := 0#5, rdGrayP := 0#5
    pStage := zeroEntry Config.illustration
    prevId := 0#8, readsInfo := false, ack := 0#16, ackOut := 0#16, pOk := false
    slots := Vector.replicate Config.slots (zeroEntry Config.illustration)
    rdBin := 0#5, rdGray := 0#5, wrGrayQ := 0#5
    qStage := zeroEntry Config.illustration
    qBusy := false, qEntry := none
    modCycle := Config.modCycleAfterClear, stmCycle := 0#32, gainMode := 0#16, wDone := false
    cycleTab := List.replicate Config.illustration.n 0#16
    mem := [], bus := []
    pTodo := [], pPending := [], pReply := none, pTries := 0
    qTodo := [], qPending := [], gainCount := 0#16, gainPasses := [], tabOld := none
    emitDue := 0, draws := 0
    sched := [], pIn := [], qIn := [], answers := [] }

end Sys2Proof.Machine
end

