-- ==== Sys2Proof/Machine/Memory.lean ====
section
/-! DEFINITION. The device memory as byte cells in canonical form, the byte address of a location, and the memory
primitives of 00_scope.md rule R9 and 20_memory.md rules R60 to R68. -/

namespace Sys2Proof.Machine

/-- What an unlisted address reads as: the source gives the device memory no contents (10_state.md rules R40 and R50;
DESIGN CHOICE, unsafe, notes/assumptions/4.md). Window writes read it through `State.modBase` and `State.stmBase`. -/
def unlistedByte : Byte := 0#8

/-- The byte at an address. -/
def Memory.readByte : Memory → Nat → Byte
  | [], _ => unlistedByte
  | (b, u) :: m, a => if a = b then u else Memory.readByte m a

/-- Write one byte, keeping the canonical form. -/
def Memory.writeByte : Memory → Nat → Byte → Memory
  | [], a, v => if v = unlistedByte then [] else [(a, v)]
  | (b, u) :: m, a, v =>
    if a < b then (if v = unlistedByte then (b, u) :: m else (a, v) :: (b, u) :: m)
    else if a = b then (if v = unlistedByte then m else (a, v) :: m)
    else (b, u) :: Memory.writeByte m a v

/-- Every address of the list is above `a`, they rise strictly, and no cell holds what an unlisted address reads as. -/
def Memory.wfFrom : Nat → Memory → Bool
  | _, [] => true
  | lo, (b, u) :: m => decide (lo ≤ b) && u != unlistedByte && Memory.wfFrom (b + 1) m

/-- The canonical form holds. -/
def Memory.wf (m : Memory) : Bool := Memory.wfFrom 0 m

/-- The word whose low byte is at byte address `a`. -/
def Memory.readWord (m : Memory) (a : Nat) : Word := wordOf (m.readByte a) (m.readByte (a + 1))

/-- Write the word whose low byte is at byte address `a`. -/
def Memory.writeWord (m : Memory) (a : Nat) (v : Word) : Memory := (m.writeByte a (loByte v)).writeByte (a + 1) (hiByte v)

/-- The device word a location reaches: the region code of 10_state.md rule R37 times 2^30, plus the word address, or
`base × WINDOW_WORDS + wa` in a table window (20_memory.md rule R68). The placing of the regions is a DESIGN CHOICE, safe
(notes/assumptions/5.md). -/
def Loc.wordIndex (modBase stmBase : Word) : Loc → Nat
  | .ctrl a => a.toNat
  | .modt wa => 2 ^ 30 + (modBase.toNat * Config.windowWords + wa.toNat)
  | .drvt a => 2 * 2 ^ 30 + a.toNat
  | .stmt wa => 3 * 2 ^ 30 + (stmBase.toNat * Config.windowWords + wa.toNat)

/-- The byte address of a `CTRL` register. -/
def ctrlAddr (a : Word) : Nat := 2 * a.toNat

/-- What the device holds in a `CTRL` register the block writes. -/
def State.ctrlReg (s : State) (a : Word) : Word := s.mem.readWord (ctrlAddr a)

/-- The modulation segment-base register as it stands (rule R68). Before the block first writes it, its value is the
device's and unspecified (10_state.md rule R40); it is then 0 here, as an unlisted byte reads (DESIGN CHOICE, unsafe,
notes/assumptions/4.md). -/
def State.modBase (s : State) : Word := s.ctrlReg s.cfg.aModAddrOffset

/-- The streaming segment-base register as it stands (rule R68); 0 before the block first writes it, where the spec
gives no value (DESIGN CHOICE, unsafe, notes/assumptions/4.md). -/
def State.stmBase (s : State) : Word := s.ctrlReg s.cfg.aStmAddrOffset

/-- The byte address a location reaches now. -/
def State.byteAddr (s : State) (l : Loc) : Nat := 2 * l.wordIndex s.modBase s.stmBase

/-- The next word of the same region. -/
def Loc.next : Loc → Loc
  | .ctrl a => .ctrl (a + 1#16)
  | .modt wa => .modt (wa + 1)
  | .drvt a => .drvt (a + 1#16)
  | .stmt wa => .stmt (wa + 1)

/-- `BramWrite` (20_memory.md rule R62): one word to the device, and the request on the port of domain `d`. -/
def bramWrite (d : Domain) (l : Loc) (v : Word) (s : State) : State :=
  { s with mem := s.mem.writeWord (s.byteAddr l) v, bus := .write d l v :: s.bus }

/-- Single-word writes in order. -/
def bramWrites (d : Domain) : List (Loc × Word) → State → State
  | [], s => s
  | (l, v) :: ws, s => bramWrites d ws (bramWrite d l v s)

/-- The writes of `BramCopy`: the words of `src` to `l` and the locations after it, ascending (rule R63). -/
def copyTo : Loc → List Word → List (Loc × Word)
  | _, [] => []
  | l, v :: vs => (l, v) :: copyTo l.next vs

/-- The writes of `BramFill` (rule R65). -/
def fillAt (l : Loc) (v : Word) (count : Nat) : List (Loc × Word) := copyTo l (List.replicate count v)

/-- The answer to a read of a device-owned word: the environment's next answer, or a free value where none is listed
(rule R61). -/
def nextAnswer (s : State) : Word := s.answers.headD (Config.deviceAnswer s.draws)

/-- `BramRead` of a device-owned word (rule R61): consumes the answer and makes the request on domain `d`'s port. -/
def bramRead (d : Domain) (l : Loc) (s : State) : State :=
  { s with answers := s.answers.tail, draws := s.draws + 1, bus := .read d l (nextAnswer s) :: s.bus }

end Sys2Proof.Machine
end

