-- ==== Sys2Proof/Machine/Flags.lean ====
section
/-! DEFINITION. The two combinational conditions of the block (10_state.md rule R25) and the tests of a popped or
arrived Header's flags that the operations make (30_encoding.md rules R103 and R104). -/

namespace Sys2Proof.Machine

/-- `full_p`: advancing the write cursor would meet the read cursor that domain P sees (rule R25). -/
def fullP (s : State) : Bool := gray5 (inc5 s.wrBin) == s.rdGrayP

/-- `empty_q`: the read cursor stands at the write cursor that domain Q sees (rule R25). -/
def emptyQ (s : State) : Bool := s.rdGray == s.wrGrayQ

/-- The Header of the frame in `p_stage` asks for the device status word (45_dispatch_apply.md rule R239). -/
def wantsInfo (s : State) : Bool := hasFpga s.pStage.hdr.fpgaFlags s.cfg.fpgaReadsFpgaInfo

/-- A cpu member is set in the frame being applied. -/
def qHas (s : State) (m : Byte) : Bool := hasCpu s.qStage.hdr.cpuFlags m

/-- `legacy` of the frame being applied (44_gain_writer.md rule R216). -/
def qLegacy (s : State) : Bool := hasFpga s.qStage.hdr.fpgaFlags s.cfg.fpgaLegacyMode

/-- `is_duty` of the frame being applied (rule R216). -/
def qIsDuty (s : State) : Bool := qHas s s.cfg.cpuIsDuty

end Sys2Proof.Machine
end

