-- ==== Sys2Proof/Machine/Operands.lean ====
section
/-! DEFINITION. The views of a frame: the payload union (30_encoding.md rule R93), the Body (rules R95 to R99), and the
pass images the gain-data modes make of a Body (44_gain_writer.md rules R215 to R220). -/

namespace Sys2Proof.Machine

/-- Payload byte `i`; beyond the payload a drawn byte (93_implementation_defined.md U5). -/
def payloadByte (h : Header) (d i : Nat) : Byte := elemOr h.payload.toList i (Config.overreadByte d)

/-- Body word `i`; beyond the Body a drawn word (U5). -/
def bodyWord (b : List Word) (d i : Nat) : Word := elemOr b i (Config.overreadWord d)

/-- `body[0 .. N-1]`. -/
def bodyWords (c : Params) (b : List Word) (d : Nat) : List Word := (List.range c.n).map (bodyWord b d)

/-- The 32-bit frequency divisor of a modulation head: payload bytes 0 to 3, little-endian (rules R93 and R70). -/
def modDivisor (h : Header) (d : Nat) : Count :=
  u32Of (wordOf (payloadByte h d 0) (payloadByte h d 1)) (wordOf (payloadByte h d 2) (payloadByte h d 3))

/-- The words of `n` modulation samples whose first is payload byte `start`, an odd count rounded up with the byte that
follows as pad (42_mod_writer.md rules R184 and R185). -/
def modWords (h : Header) (d start n : Nat) : List Word :=
  (List.range ((n + (Config.modSamplesPerWord - 1)) / Config.modSamplesPerWord)).map fun j =>
    wordOf (payloadByte h d (start + 2 * j)) (payloadByte h d (start + 2 * j + 1))

/-- The silencer step of the payload (rule R93, 45_dispatch_apply.md rule R247). -/
def silencerStep (h : Header) (d : Nat) : Word := wordOf (payloadByte h d 0) (payloadByte h d 1)

/-- The silencer cycle of the payload (rules R93 and R247). -/
def silencerCycle (h : Header) (d : Nat) : Word := wordOf (payloadByte h d 2) (payloadByte h d 3)

/-- The `4 × n` words of `n` point samples whose first word is Body word `start` (rule R97). -/
def pointWords (b : List Word) (d start n : Nat) : List Word :=
  (List.range (Config.pstmWords * n)).map fun k => bodyWord b d (start + k)

/-- The words of the synchronisation timestamp (45_dispatch_apply.md rule R254). -/
def syncTimeWords (c : Params) (h : Header) : List Word := (List.range c.syncTimeWords).map (Config.syncTimeOf h)

/-- A word offset of a gain slot. -/
def slotOffset (o : Nat) : SlotOff := BitVec.ofNat Config.slotBits o

/-- Element `i` of a cycle table; beyond its `N` elements, which no gain writer reads, a drawn word of its own. -/
def tableElem (tab : List Word) (d i : Nat) : Word := elemOr tab i fun j => Config.overreadWord d (2 ^ 16 + j)

/-- Element `i` of the cycle table as the gain writer reads it: while a synchronize is under way, the value before or
after it, for each element apart (20_memory.md rule R79). -/
def tableWord (s : State) (i : Nat) : Word :=
  match s.tabOld with
  | none => tableElem s.cycleTab s.draws i
  | some old => if Config.raceOld s.draws i then tableElem old s.draws i else tableElem s.cycleTab s.draws i

/-- A legacy pass: one word for each transducer, `LEGACY_STRIDE` words apart (44_gain_writer.md rule R215). -/
def legacyPass (c : Params) (word : Nat → Word) : Pass :=
  (List.range c.n).map fun i => (slotOffset (c.legacyStride.toNat * i), word i)

/-- A non-legacy pass of phase words alone, at the even offsets (rule R215). -/
def phasePass (c : Params) (phase : Nat → Word) : Pass :=
  (List.range c.n).map fun i => (slotOffset (2 * i), phase i)

/-- A non-legacy pass of duty words alone, at the odd offsets (rule R215). -/
def dutyPass (c : Params) (duty : Nat → Word) : Pass :=
  (List.range c.n).map fun i => (slotOffset (2 * i + 1), duty i)

/-- A non-legacy pass of phase and duty words (rule R215). -/
def pairPass (c : Params) (phase duty : Nat → Word) : Pass :=
  (List.range c.n).flatMap fun i => [(slotOffset (2 * i), phase i), (slotOffset (2 * i + 1), duty i)]

/-- A legacy word whose phase byte is `p`, the duty byte forced to ones (rules R219 and R220). -/
def legacyWord (p : Byte) : Word := wordOf p 0xFF#8

/-- Nibble `q` of a sample as a duplicated-nibble byte (rule R220). -/
def nibbleByte (w : Word) (q : Nat) : Byte := w.extractLsb' (4 * q) 4 ++ w.extractLsb' (4 * q) 4

/-- G.PHASE_DUTY_FULL: the passes of rule R218 for the Body words `b`. -/
def phaseDutyFullPasses (c : Params) (legacy isDuty : Bool) (b : Nat → Word) : List Pass :=
  if legacy then [legacyPass c b]
  else if !isDuty then [pairPass c (fun i => Config.phaseOf (b i)) (fun i => Config.dutyOf (b i))]
  else match c.pdfDutyFrameWrites with
    | .phaseOnly => [phasePass c fun i => Config.phaseOf (b i)]
    | .dutyOnly => [dutyPass c fun i => Config.dutyOf (b i)]

/-- G.PHASE_FULL: the passes of rule R219 for the Body words `b` and the cycle-table words `tab`. -/
def phaseFullPasses (c : Params) (legacy isDuty : Bool) (b tab : Nat → Word) : List Pass :=
  if legacy then
    [legacyPass c fun i => legacyWord (loByte (b i)), legacyPass c fun i => legacyWord (hiByte (b i))]
  else if isDuty then []
  else [pairPass c b fun i => Config.defaultDuty (tab i)]

/-- G.PHASE_HALF: the passes of rule R220 for the Body words `b`. -/
def phaseHalfPasses (c : Params) (legacy : Bool) (b : Nat → Word) : List Pass :=
  if legacy then (List.range 4).map fun q => legacyPass c fun i => legacyWord (nibbleByte (b i) q) else []

/-- The passes a builder makes of the frame being applied (rule R216). -/
def gainPassesOf (g : GainMode) (s : State) : List Pass :=
  match g with
  | .pdf => phaseDutyFullPasses s.cfg (qLegacy s) (qIsDuty s) (bodyWord s.qStage.body s.draws)
  | .pf => phaseFullPasses s.cfg (qLegacy s) (qIsDuty s) (bodyWord s.qStage.body s.draws) (tableWord s)
  | .ph => phaseHalfPasses s.cfg (qLegacy s) (bodyWord s.qStage.body s.draws)

end Sys2Proof.Machine
end

