-- ==== Sys2Proof/Machine/Ops.lean ====
section
/-! DEFINITION. The shared operations: the mailbox (40_mailbox.md), the ring writer (41_ring_writer.md,
44_gain_writer.md), the dispatcher and the acknowledgment (45_dispatch_apply.md), and the power-on reset
(70_reset_and_hazards.md). The block takes no exception and returns from none (60_exceptions.md rules R270 and R276), so
there is no such operation. -/

namespace Sys2Proof.Machine

/-- What a meaning answers. -/
abbrev Result := Host.Outcome State Fault Refusal

/-- Go on with the next state of an outcome; a fault or a refusal stands. -/
def onNext (o : Result) (f : State → Result) : Result :=
  match o with
  | .next s => f s
  | .fault r => .fault r
  | .refused r => .refused r

/-! ## The mailbox -/

/-- MBX.PUSH of an entry: nothing but `p_ok` = 0 when full, else the slot, then the cursor and its code
(40_mailbox.md rule R123). -/
def pushEntry (e : Entry) (s : State) : State :=
  if fullP s then { s with pOk := false }
  else
    { s with
      slots := s.slots.set s.wrBin.toNat e s.wrBin.isLt
      wrBin := inc5 s.wrBin
      wrGray := gray5 (inc5 s.wrBin)
      pOk := true }

/-- MBX.POP: nothing but `q_valid` = 0 when empty, else the slot's copy on `q_entry` and the cursor (rule R124). -/
def popEntry (s : State) : State :=
  if emptyQ s then { s with qEntry := none }
  else
    { s with
      qEntry := some (s.slots[s.rdBin.toNat]'s.rdBin.isLt)
      rdBin := inc5 s.rdBin
      rdGray := gray5 (inc5 s.rdBin) }

/-- What a synchroniser samples: a member of `path(a, b)`, the one the environment names where it is on the path, else
a free choice (rule R127, `SW -> k` of 30_encoding.md rule R110). -/
def syncSample (a b : Cursor) (k : Option Cursor) (d : Nat) : Cursor :=
  match k with
  | some v => if onPath a b v then v else a + BitVec.ofNat Config.curBits (Config.syncPick d % (dist a b + 1))
  | none => a + BitVec.ofNat Config.curBits (Config.syncPick d % (dist a b + 1))

/-- SW (rule R127). -/
def syncWrite (k : Option Cursor) (s : State) : State :=
  { s with wrGrayQ := gray5 (syncSample (ungray5 s.wrGrayQ) s.wrBin k s.draws), draws := s.draws + 1 }

/-- SR (rule R127). -/
def syncRead (k : Option Cursor) (s : State) : State :=
  { s with rdGrayP := gray5 (syncSample (ungray5 s.rdGrayP) s.rdBin k s.draws), draws := s.draws + 1 }

/-- The transition of MBX.CLR, once enabled (rule R128). -/
def clearMailbox (s : State) : State :=
  { s with
    wrBin := 0#5, wrGray := 0#5, rdGrayP := 0#5
    rdBin := 0#5, rdGray := 0#5, wrGrayQ := 0#5
    slots := Vector.replicate Config.slots (zeroEntry s.cfg)
    pStage := zeroEntry s.cfg
    qStage := zeroEntry s.cfg }

/-- Agent P holds an operation that is not enabled: it is the next one P tries (rule R128, 45_dispatch_apply.md rule
R252: "wait until q_busy == 0"). -/
def holdP (i : Instr) (s : State) : State := { s with pTodo := i :: s.pTodo }

/-- One attempt of the retry loop on `p_stage`: done when the push succeeds, the fault mark when the bound is reached,
else another attempt is P's next operation (40_mailbox.md rule R134). -/
def enqAttempt (s : State) : Result :=
  if fullP s then
    if s.cfg.retryLimit = some (s.pTries + 1) then .fault (.mailboxOverflow s.wrBin s.rdGrayP)
    else .next (holdP .enq { s with pOk := false, pTries := s.pTries + 1 })
  else .next { pushEntry s.pStage s with pTries := 0 }

/-! ## The ring writer -/

/-- `k` of a channel (41_ring_writer.md rule R151). -/
def Channel.k : Channel → Nat
  | .mod => Config.kMod
  | .pstm => Config.kPstm
  | .gstm => Config.kGstm

/-- `S = 2^k` (rule R151). -/
def Channel.size (ch : Channel) : Nat := 2 ^ ch.k

/-- The counter of a channel (rule R151). -/
def Channel.cycle (ch : Channel) (s : State) : Count :=
  match ch with
  | .mod => s.modCycle
  | .pstm => s.stmCycle
  | .gstm => s.stmCycle

/-- Write the counter of a channel. -/
def Channel.setCycle (ch : Channel) (c : Count) (s : State) : State :=
  match ch with
  | .mod => { s with modCycle := c }
  | .pstm => { s with stmCycle := c }
  | .gstm => { s with stmCycle := c }

/-- `A_base` of a channel (rule R151). -/
def Channel.baseReg (ch : Channel) (c : Params) : Word :=
  match ch with
  | .mod => c.aModAddrOffset
  | .pstm => c.aStmAddrOffset
  | .gstm => c.aStmAddrOffset

/-- `A_len` of a channel (rule R151). -/
def Channel.lenReg (ch : Channel) (c : Params) : Word :=
  match ch with
  | .mod => c.aModCycle
  | .pstm => c.aStmCycle
  | .gstm => c.aStmCycle

/-- `off = cycle & (S - 1)` (rule R152). -/
def Channel.off (ch : Channel) (cycle : Count) : Nat := (cycle &&& BitVec.ofNat Config.cycleBits (ch.size - 1)).toNat

/-- `cap = S - off` (rule R152). -/
def Channel.cap (ch : Channel) (cycle : Count) : Nat := ch.size - ch.off cycle

/-- What the segment-base register takes for a counter value: `trunc_16(cycle >> k)` (rules R152 and R155). -/
def Channel.baseOf (ch : Channel) (cycle : Count) : Word := trunc16 (cycle >>> ch.k)

/-- What the length register takes: `trunc_16(max(1, cycle) - 1)` (rule R157). -/
def lengthOf (cycle : Count) : Word := trunc16 ((if cycle = 0#32 then 1#32 else cycle) - 1#32)

/-- The ring writer answers on `w_done` (10_state.md rule R42). -/
def writerDone (s : State) : State := { s with wDone := true }

/-- Write the segment-base register of a channel for a counter value. -/
def writeBase (ch : Channel) (cycle : Count) (s : State) : State :=
  bramWrite .q (.ctrl (ch.baseReg s.cfg)) (ch.baseOf cycle) s

/-- SEG.BEGIN (41_ring_writer.md rule R158). -/
def segBegin (ch : Channel) (s : State) : State :=
  writerDone (bramWrite .q (.ctrl (ch.baseReg s.cfg)) 0#16 (ch.setCycle 0#32 s))

/-- SEG.END (rule R157). -/
def segEnd (ch : Channel) (s : State) : State :=
  writerDone (bramWrite .q (.ctrl (ch.lenReg s.cfg)) (lengthOf (ch.cycle s)) s)

/-- SEG.RESET (rule R159). -/
def segResetCounters (s : State) : State :=
  writerDone { s with modCycle := Config.modCycleAfterClear, stmCycle := 0#32 }

/-- The writes of `count` point samples, each four words at an eight-word stride (43_point_writer.md rule R197). -/
def pointWrites : WinAddr → Nat → List Word → List (Loc × Word)
  | _, 0, _ => []
  | wa, count + 1, src =>
    copyTo (.stmt wa) (src.take Config.pstmWords) ++
      pointWrites (wa + BitVec.ofNat Config.windowBits Config.pstmStride) count (src.drop Config.pstmWords)

/-- `put`: the writes of `count` units from the start of `src` to unit offset `off` (42_mod_writer.md rule R182,
43_point_writer.md rule R197). -/
def putUnits (ch : Channel) (off count : Nat) (src : List Word) : List (Loc × Word) :=
  match ch with
  | .mod => 
    copyTo (.modt (BitVec.ofNat Config.windowBits (off / Config.modSamplesPerWord)))
      (src.take ((count + (Config.modSamplesPerWord - 1)) / Config.modSamplesPerWord))
  | .pstm => pointWrites (BitVec.ofNat Config.windowBits (off * Config.pstmStride)) count src
  | .gstm => []

/-- The words of `src` after its first `count` units (rules R182 and R197). -/
def dropUnits (ch : Channel) (count : Nat) (src : List Word) : List Word :=
  match ch with
  | .mod => src.drop (count / Config.modSamplesPerWord)
  | .pstm => src.drop (Config.pstmWords * count)
  | .gstm => []

/-- The lazy rebase before a write that starts on a boundary other than the stream's start (41_ring_writer.md rules R155
and R156). -/
def lazyRebase (ch : Channel) (s : State) : State :=
  if ch.off (ch.cycle s) = 0 ∧ ch.cycle s ≠ 0#32 then writeBase ch (ch.cycle s) s else s

/-- The fits arm and the straddle arm of SEG.WRITE (rule R155), for `n` units with `n ≤ cap + S`. -/
def writeUnits (ch : Channel) (n : Nat) (src : List Word) (s : State) : State :=
  let cycle := ch.cycle s
  let off := ch.off cycle
  let cap := ch.cap cycle
  if n ≤ cap then ch.setCycle (cycle + BitVec.ofNat Config.cycleBits n) (bramWrites .q (putUnits ch off n src) s)
  else
    let boundary := cycle + BitVec.ofNat Config.cycleBits cap
    let tail := ch.setCycle boundary (bramWrites .q (putUnits ch off cap src) s)
    ch.setCycle (boundary + BitVec.ofNat Config.cycleBits (n - cap))
      (bramWrites .q (putUnits ch 0 (n - cap) (dropUnits ch cap src)) (writeBase ch boundary tail))

/-- SEG.WRITE for a channel that splits: the checks in the order of 60_exceptions.md rule R274, then the lazy rebase and
the write (41_ring_writer.md rule R155, 42_mod_writer.md rule R182). -/
def segWrite (ch : Channel) (n : BitVec 16) (src : List Word) (s : State) : Result :=
  let cycle := ch.cycle s
  if ch.cap cycle + ch.size < n.toNat then .fault (.segOverrun ch cycle n)
  else if n = 0#16 then .next (writerDone s)
  else if ch = .mod ∧ cycle.getLsbD 0 = true then .fault (.modOddOffset cycle n)
  else .next (writerDone (writeUnits ch n.toNat src (lazyRebase ch s)))

/-- The writes of one pass into the slot whose first word is `wa` (44_gain_writer.md rule R213). -/
def passWrites (wa : WinAddr) (p : Pass) : List (Loc × Word) :=
  p.map fun x => (.stmt (wa + x.1.zeroExtend Config.windowBits), x.2)

/-- The writes of the passes into the slots from counter value `cycle` on, wrapping inside the window (rule R213). -/
def slotWrites : Count → List Pass → List (Loc × Word)
  | _, [] => []
  | cycle, p :: ps =>
    passWrites (BitVec.ofNat Config.windowBits (Channel.gstm.off cycle * Config.gstmSlotWords)) p ++ slotWrites (cycle + 1#32) ps

/-- The boundary test of the gain writer, on the counter after the advance (rule R213). -/
def eagerRebase (s : State) : State :=
  if Channel.gstm.off s.stmCycle = 0 then writeBase .gstm s.stmCycle s else s

/-- SEG.WRITE.GSTM (rule R213). -/
def segWriteGain (m : BitVec 16) (passes : List Pass) (s : State) : Result :=
  if Channel.gstm.size < m.toNat then .fault (.segOverrun .gstm s.stmCycle m)
  else
    .next (writerDone (eagerRebase
      (Channel.gstm.setCycle (s.stmCycle + m.zeroExtend Config.cycleBits)
        (bramWrites .q (slotWrites s.stmCycle (passes.take m.toNat)) s))))

/-- A pass builder hands its result to the ring writer's operand port (rules R216 and R42). -/
def latchPasses (g : GainMode) (s : State) : State :=
  { s with
    gainCount := BitVec.ofNat 16 (gainPassesOf g s).length
    gainPasses := gainPassesOf g s
    draws := s.draws + 1 }

/-! ## The dispatcher, the global clear, the acknowledgment -/

/-- ARRIVE up to its command: the copy by value, the duplicate check, the two registers every other frame writes, and
the selection (45_dispatch_apply.md rules R236, R238 and R239). The command and ACK.UPDATE are P's next operations. -/
def arriveFrame (e : Entry) (s : State) : State :=
  let t : State := { s with pStage := e, pReply := none, pTodo := [dispatch s.cfg s.prevId e.hdr, .ackUpdate] }
  if e.hdr.messageId = s.prevId then t
  else { t with prevId := e.hdr.messageId, readsInfo := wantsInfo t }

/-- A synchronous reply, kept for the ACK.UPDATE of the same ARRIVE (rule R236). -/
def setReply (b : Byte) (s : State) : State := { s with pReply := some (b.zeroExtend 16) }

/-- The device writes of the global clear, in order (45_dispatch_apply.md rule R252). -/
def clearWrites (c : Params) : List (Loc × Word) :=
  [(.ctrl c.aModAddrOffset, 0#16), (.ctrl c.aStmAddrOffset, 0#16), (.modt 0#14, 0#16)] ++
    fillAt (.drvt 0#16) 0#16 c.drvWords

/-- The global clear once domain Q is between ticks: one transition (rule R252). -/
def globalClear (s : State) : State :=
  let s1 : State := { s with readsInfo := false, ack := 0#16 }
  let s2 := bramWrites .p
    [(.ctrl s.cfg.aCtlReg, s.cfg.fpgaLegacyMode), (.ctrl s.cfg.aSilentStep, s.cfg.silentStepDefault),
     (.ctrl s.cfg.aSilentCycle, s.cfg.silentCycleDefault)] s1
  clearMailbox (bramWrites .p (clearWrites s.cfg) (segResetCounters s2))

/-- The device writes of the synchronize operation, in order (rule R254). -/
def syncWrites (c : Params) (e : Entry) (d : Nat) : List (Loc × Word) :=
  copyTo (.ctrl c.aCycleBase) (bodyWords c e.body d) ++ copyTo (.ctrl c.aSyncTime0) (syncTimeWords c e.hdr) ++
    [(.ctrl c.aCtlReg, e.hdr.fpgaFlags.zeroExtend 16 ||| c.fpgaSync)]

/-- The synchronize operation (rule R254); until the ARRIVE ends, a gain writer in domain Q may read either table (20_memory.md
rule R79). -/
def synchronize (s : State) : State :=
  { bramWrites .p (syncWrites s.cfg s.pStage s.draws) s with
    cycleTab := bodyWords s.cfg s.pStage.body s.draws
    tabOld := some s.cycleTab
    draws := s.draws + 1 }

/-- The low byte ACK.UPDATE gives the acknowledgment when no status byte is wanted (rule R255). -/
def ackLow (s : State) : Byte :=
  match s.pReply with
  | some r => loByte r
  | none => loByte s.ack

/-- Write the acknowledgment and drive it out; the ARRIVE ends (rules R255 and R236). -/
def setAck (low : Byte) (s : State) : State :=
  { s with ack := wordOf low s.prevId, ackOut := wordOf low s.prevId, tabOld := none }

/-- ACK.UPDATE (rule R255): the device status byte where it is wanted, else the reply, else the byte it had. -/
def updateAck (s : State) : State :=
  if s.readsInfo then setAck (loByte (nextAnswer s)) (bramRead .p (.ctrl s.cfg.aFpgaInfo) s)
  else setAck (ackLow s) s

/-! ## TICK -/

/-- TICK up to its commands: the pop, and for a popped entry the staging, `q_busy`, the control-register write and the
selection (45_dispatch_apply.md rules R240 and R251). The pulse also reaches domain P, for ACK.EMIT (rule R256). -/
def startTick (s : State) : State :=
  let t := popEntry { s with emitDue := s.emitDue + 1 }
  match t.qEntry with
  | none => t
  | some e =>
    bramWrite .q (.ctrl s.cfg.aCtlReg) (e.hdr.fpgaFlags.zeroExtend 16)
      { t with qStage := e, qBusy := true, qTodo := applyCommands s.cfg e.hdr }

/-- The end of a TICK: `q_busy` falls when no command and no device write of it is left (rule R240). -/
def endOfTick (s : State) : State := if s.qTodo = [] ∧ s.qPending = [] then { s with qBusy := false } else s

/-! ## The requests of a running command -/

/-- The requests newly made between two states, oldest first. -/
def newRequests (s t : State) : List BusReq := (t.bus.take (t.bus.length - s.bus.length)).reverse

/-- The location and word of a write request. -/
def BusReq.asWrite : BusReq → Option (Loc × Word)
  | .read _ _ _ => none
  | .write _ l v => some (l, v)

/-- The device writes newly made between two states, oldest first. -/
def newWrites (s t : State) : List (Loc × Word) := (newRequests s t).filterMap BusReq.asWrite

/-- The command of domain `d` that led from `s` to `t` has its registers written and its device writes still to make:
they reach the device one request at a time, in their order (20_memory.md rules R67 and R80). -/
def postWrites (d : Domain) (s t : State) : State :=
  match d with
  | .p => { t with mem := s.mem, bus := s.bus, pPending := newWrites s t }
  | .q => { t with mem := s.mem, bus := s.bus, qPending := newWrites s t }

/-! ## Power-on reset -/

/-- What storage place `j` holds after a power-on reset: a free entry of `N` words (10_state.md rule R23). -/
def powerOnEntry (s : State) (j : Nat) : Entry :=
  { hdr := Config.powerOnHeader s.draws j
    body := (List.range s.cfg.n).map (Config.powerOnWord s.draws j) }

/-- The power-on reset of a block in any state (70_reset_and_hazards.md rules R290 and R292): the values of 10_state.md
rule R50, free values where it says unspecified, nothing written to the device, both activities abandoned. Places 0 to 31
are the slots, 32 and 33 the staging registers, 34 the cycle table, 35 the single registers. -/
def powerOnReset (s : State) : State :=
  { s with
    wrBin := 0#5, wrGray := 0#5, rdGrayP := 0#5, rdBin := 0#5, rdGray := 0#5, wrGrayQ := 0#5
    slots := Vector.ofFn fun j => powerOnEntry s j.val
    pStage := powerOnEntry s 32
    qStage := powerOnEntry s 33
    qBusy := false
    modCycle := Config.modCycleAfterClear
    stmCycle := 0#32
    gainMode := Config.powerOnWord s.draws 35 0
    cycleTab := (List.range s.cfg.n).map (Config.powerOnWord s.draws 34)
    prevId := loByte (Config.powerOnWord s.draws 35 1)
    readsInfo := (Config.powerOnWord s.draws 35 2).getLsbD 0
    ack := Config.powerOnWord s.draws 35 3
    ackOut := Config.powerOnWord s.draws 35 4
    pOk := (Config.powerOnWord s.draws 35 5).getLsbD 0
    qEntry := none
    wDone := (Config.powerOnWord s.draws 35 6).getLsbD 0
    pTodo := [], pPending := [], pReply := none, pTries := 0
    qTodo := [], qPending := [], gainCount := 0#16, gainPasses := [], tabOld := none
    emitDue := 0
    draws := s.draws + 1 }

end Sys2Proof.Machine
end

