-- ==== Sys2Proof/Machine/Apply.lean ====
section
/-! DEFINITION. The meanings of the periodic path: TICK, the A.* commands and the G.* pass builders
(45_dispatch_apply.md section 2, 42_mod_writer.md, 43_point_writer.md, 44_gain_writer.md, Layer 2). -/

namespace Sys2Proof.Machine

/-- TICK: its own steps; the commands the flags select are left as Q's next operations (45_dispatch_apply.md rule R240). -/
def execTick (s : State) : Result := .next (startTick s)

/-- The two register writes of a 32-bit quantity, low half first (20_memory.md rule R71). -/
def pairWrites (a0 a1 : Word) (lo hi : Word) : List (Loc × Word) := [(.ctrl a0, lo), (.ctrl a1, hi)]

/-- The begin part of A.WRITE_MOD (42_mod_writer.md rule R184). -/
def beginMod (s : State) : State :=
  let div := modDivisor s.qStage.hdr s.draws
  bramWrites .q (pairWrites s.cfg.aModFreqDiv0 s.cfg.aModFreqDiv1 (loHalf div) (hiHalf div)) (segBegin .mod s)

/-- A.WRITE_MOD (rule R184). -/
def execAWriteMod (s : State) : Result :=
  let h := s.qStage.hdr
  let head := qHas s s.cfg.cpuModBegin
  let src := modWords h s.draws (if head then Config.modHeadOffset else 0) h.size.toNat
  let begun := if head then beginMod s else s
  onNext (segWrite .mod (h.size.zeroExtend 16) src { begun with draws := s.draws + 1 }) fun t =>
    .next (if qHas s s.cfg.cpuModEnd then segEnd .mod t else t)

/-- A.CONFIG_SILENCER (45_dispatch_apply.md rule R247). -/
def execAConfigSilencer (s : State) : Result :=
  .next (bramWrites .q
    [(.ctrl s.cfg.aSilentStep, silencerStep s.qStage.hdr s.draws),
     (.ctrl s.cfg.aSilentCycle, silencerCycle s.qStage.hdr s.draws)] s)

/-- A.HEADER_ONLY: no operation (rule R250). -/
def execAHeaderOnly (s : State) : Result := .next s

/-- A.MOD_DELAY (rule R249). -/
def execAModDelay (s : State) : Result :=
  .next { bramWrites .q (copyTo (.ctrl s.cfg.aModDelayBase) (bodyWords s.cfg s.qStage.body s.draws)) s with
    draws := s.draws + 1 }

/-- A.DRIVE (rule R248). -/
def execADrive (s : State) : Result :=
  .next (bramWrites .q
    ((Config.driveWrite s.cfg s.qStage.hdr s.qStage.body).map fun x => (.drvt (BitVec.ofNat 16 x.1.val), x.2)) s)

/-- The begin part of A.POINT_STM (43_point_writer.md rule R199). -/
def beginPoint (s : State) : State :=
  let b := bodyWord s.qStage.body s.draws
  bramWrites .q
    (pairWrites s.cfg.aStmFreqDiv0 s.cfg.aStmFreqDiv1 (b 1) (b 2) ++
      pairWrites s.cfg.aSoundSpeed0 s.cfg.aSoundSpeed1 (b 3) (b 4)) (segBegin .pstm s)

/-- A.POINT_STM (rule R199). -/
def execAPointStm (s : State) : Result :=
  let head := qHas s s.cfg.cpuStmBegin
  let n := bodyWord s.qStage.body s.draws 0
  let src := pointWords s.qStage.body s.draws (if head then Config.pstmHeadWords else 1) n.toNat
  let begun := if head then beginPoint s else s
  onNext (segWrite .pstm n src { begun with draws := s.draws + 1 }) fun t =>
    .next (if qHas s s.cfg.cpuStmEnd then segEnd .pstm t else t)

/-- The head frame of A.GAIN_STM (44_gain_writer.md rule R216). -/
def beginGain (s : State) : State :=
  let b := bodyWord s.qStage.body s.draws
  { bramWrites .q (pairWrites s.cfg.aStmFreqDiv0 s.cfg.aStmFreqDiv1 (b 0) (b 1)) (segBegin .gstm s) with
    gainMode := b 2
    draws := s.draws + 1 }

/-- The body frame of A.GAIN_STM (rule R216): the passes of the retained mode, then SEG.WRITE.GSTM. -/
def gainBody (s : State) : Result :=
  let t := latchPasses (gainModeOf s.cfg s.gainMode) s
  segWriteGain t.gainCount t.gainPasses t

/-- A.GAIN_STM (rule R216). -/
def execAGainStm (s : State) : Result :=
  onNext (if qHas s s.cfg.cpuStmBegin then .next (beginGain s) else gainBody s) fun t =>
    .next (if qHas s s.cfg.cpuStmEnd then segEnd .gstm t else t)

/-- G.PHASE_DUTY_FULL: its result on the ring writer's operand port (rule R218). -/
def execGPhaseDutyFull (s : State) : Result := .next (latchPasses .pdf s)

/-- G.PHASE_FULL (rule R219). -/
def execGPhaseFull (s : State) : Result := .next (latchPasses .pf s)

/-- G.PHASE_HALF (rule R220). -/
def execGPhaseHalf (s : State) : Result := .next (latchPasses .ph s)

end Sys2Proof.Machine
end

