-- ==== Sys2Proof/Machine/Dispatcher.lean ====
section
/-! DEFINITION. The meanings of the arrival path: ARRIVE, the F.* commands and the acknowledgment
(45_dispatch_apply.md sections 1, 3 and 4). -/

namespace Sys2Proof.Machine

/-- ARRIVE: its own steps; the command it selects and ACK.UPDATE are left as P's next operations (rule R236). -/
def execArrive (e : Entry) (s : State) : Result := .next (arriveFrame e s)

/-- F.DUPLICATE takes no action (rule R237). -/
def execFDuplicate (s : State) : Result := .next s

/-- F.CLEAR: the global clear when `q_busy` = 0, else P waits with it (rule R252). -/
def execFClear (s : State) : Result := .next (if s.qBusy then holdP .fClear s else globalClear s)

/-- F.RD_CPU_VERSION (rule R242). -/
def execFRdCpuVersion (s : State) : Result := .next (setReply s.cfg.cpuVersion s)

/-- F.RD_FPGA_VERSION: the low byte of the device version word (rule R243). -/
def execFRdFpgaVersion (s : State) : Result :=
  .next (setReply (loByte (nextAnswer s)) (bramRead .p (.ctrl s.cfg.aVersion) s))

/-- F.RD_FPGA_FUNCTION: the high byte of the device version word (rule R244). -/
def execFRdFpgaFunction (s : State) : Result :=
  .next (setReply (hiByte (nextAnswer s)) (bramRead .p (.ctrl s.cfg.aVersion) s))

/-- F.RESERVED changes nothing of its own, whatever the id (rule R245). -/
def execFReserved (_i : BitVec 4) (s : State) : Result := .next s

/-- F.SYNCHRONIZE (rule R254). -/
def execFSynchronize (s : State) : Result := .next (synchronize s)

/-- F.ENQUEUE: the retry loop from its first attempt (rule R246). -/
def execFEnqueue (s : State) : Result := enqAttempt { s with pTries := 0 }

/-- ACK.UPDATE (rule R255). -/
def execAckUpdate (s : State) : Result := .next (updateAck s)

/-- ACK.EMIT (rule R256). -/
def execAckEmit (s : State) : Result := .next { s with ackOut := s.ack }

end Sys2Proof.Machine
end

