-- ==== Sys2Proof/Machine/Mailbox.lean ====
section
/-! DEFINITION. The meanings of the mailbox operations (40_mailbox.md). -/

namespace Sys2Proof.Machine

/-- P.NOP changes nothing (rule R132). -/
def execPNop (s : State) : Result := .next s

/-- MBX.PUSH of the entry on `p_entry` (rule R123). -/
def execMbxPush (e : Entry) (s : State) : Result := .next (pushEntry e s)

/-- MBX.CLR: the rendezvous when `q_busy` = 0, else P waits with it (rule R128). -/
def execMbxClr (s : State) : Result := .next (if s.qBusy then holdP .mbxClr s else clearMailbox s)

/-- C.NOP changes nothing (rule R132). -/
def execCNop (s : State) : Result := .next s

/-- MBX.POP (rule R124). -/
def execMbxPop (s : State) : Result := .next (popEntry s)

/-- SW (rule R127). -/
def execSw (k : Option Cursor) (s : State) : Result := .next (syncWrite k s)

/-- SR (rule R127). -/
def execSr (k : Option Cursor) (s : State) : Result := .next (syncRead k s)

/-- ENQ: one attempt of the loop; a failed one leaves ENQ as P's next operation (rule R134). -/
def execEnq (s : State) : Result := enqAttempt s

end Sys2Proof.Machine
end

