-- ==== Sys2Proof/Machine/Writer.lean ====
section
/-! DEFINITION. The meanings of the ring-writer operations (41_ring_writer.md to 44_gain_writer.md, Layer 1). -/

namespace Sys2Proof.Machine

/-- W.NOP changes nothing (41_ring_writer.md rule R160). -/
def execWNop (s : State) : Result := .next s

/-- SEG.BEGIN.MOD (42_mod_writer.md rule R181). -/
def execSegBeginMod (s : State) : Result := .next (segBegin .mod s)

/-- SEG.WRITE.MOD (rule R182). -/
def execSegWriteMod (n : BitVec 16) (src : List Word) (s : State) : Result := segWrite .mod n src s

/-- SEG.END.MOD (rule R183). -/
def execSegEndMod (s : State) : Result := .next (segEnd .mod s)

/-- SEG.BEGIN.PSTM (43_point_writer.md rule R196). -/
def execSegBeginPstm (s : State) : Result := .next (segBegin .pstm s)

/-- SEG.WRITE.PSTM (rule R197). -/
def execSegWritePstm (n : BitVec 16) (src : List Word) (s : State) : Result := segWrite .pstm n src s

/-- SEG.END.PSTM (rule R198). -/
def execSegEndPstm (s : State) : Result := .next (segEnd .pstm s)

/-- SEG.BEGIN.GSTM (44_gain_writer.md rule R211). -/
def execSegBeginGstm (s : State) : Result := .next (segBegin .gstm s)

/-- SEG.WRITE.GSTM (rule R213). -/
def execSegWriteGstm (m : BitVec 16) (passes : List Pass) (s : State) : Result := segWriteGain m passes s

/-- SEG.END.GSTM (rule R214). -/
def execSegEndGstm (s : State) : Result := .next (segEnd .gstm s)

/-- SEG.RESET (41_ring_writer.md rule R159). -/
def execSegReset (s : State) : Result := .next (segResetCounters s)

end Sys2Proof.Machine
end

