-- ==== Sys2Proof/Machine/Dispatch.lean ====
section
/-! DEFINITION. One arm for each operation: the meaning it calls. -/

namespace Sys2Proof.Machine

def exec (i : Instr) (s : State) : Host.Outcome State Fault Refusal :=
  match i with
  | .pNop => Sys2Proof.Machine.execPNop s
  | .mbxPush e => Sys2Proof.Machine.execMbxPush e s
  | .mbxClr => Sys2Proof.Machine.execMbxClr s
  | .cNop => Sys2Proof.Machine.execCNop s
  | .mbxPop => Sys2Proof.Machine.execMbxPop s
  | .sw k => Sys2Proof.Machine.execSw k s
  | .sr k => Sys2Proof.Machine.execSr k s
  | .enq => Sys2Proof.Machine.execEnq s
  | .wNop => Sys2Proof.Machine.execWNop s
  | .segBeginMod => Sys2Proof.Machine.execSegBeginMod s
  | .segWriteMod n src => Sys2Proof.Machine.execSegWriteMod n src s
  | .segEndMod => Sys2Proof.Machine.execSegEndMod s
  | .segBeginPstm => Sys2Proof.Machine.execSegBeginPstm s
  | .segWritePstm n src => Sys2Proof.Machine.execSegWritePstm n src s
  | .segEndPstm => Sys2Proof.Machine.execSegEndPstm s
  | .segBeginGstm => Sys2Proof.Machine.execSegBeginGstm s
  | .segWriteGstm m passes => Sys2Proof.Machine.execSegWriteGstm m passes s
  | .segEndGstm => Sys2Proof.Machine.execSegEndGstm s
  | .segReset => Sys2Proof.Machine.execSegReset s
  | .arrive e => Sys2Proof.Machine.execArrive e s
  | .fDuplicate => Sys2Proof.Machine.execFDuplicate s
  | .fClear => Sys2Proof.Machine.execFClear s
  | .fRdCpuVersion => Sys2Proof.Machine.execFRdCpuVersion s
  | .fRdFpgaVersion => Sys2Proof.Machine.execFRdFpgaVersion s
  | .fRdFpgaFunction => Sys2Proof.Machine.execFRdFpgaFunction s
  | .fReserved k => Sys2Proof.Machine.execFReserved k s
  | .fSynchronize => Sys2Proof.Machine.execFSynchronize s
  | .fEnqueue => Sys2Proof.Machine.execFEnqueue s
  | .ackUpdate => Sys2Proof.Machine.execAckUpdate s
  | .ackEmit => Sys2Proof.Machine.execAckEmit s
  | .tick => Sys2Proof.Machine.execTick s
  | .aWriteMod => Sys2Proof.Machine.execAWriteMod s
  | .aConfigSilencer => Sys2Proof.Machine.execAConfigSilencer s
  | .aHeaderOnly => Sys2Proof.Machine.execAHeaderOnly s
  | .aModDelay => Sys2Proof.Machine.execAModDelay s
  | .aDrive => Sys2Proof.Machine.execADrive s
  | .aPointStm => Sys2Proof.Machine.execAPointStm s
  | .aGainStm => Sys2Proof.Machine.execAGainStm s
  | .gPhaseDutyFull => Sys2Proof.Machine.execGPhaseDutyFull s
  | .gPhaseFull => Sys2Proof.Machine.execGPhaseFull s
  | .gPhaseHalf => Sys2Proof.Machine.execGPhaseHalf s

end Sys2Proof.Machine
end

