-- ==== Sys2Proof/Machine/Fetch.lean ====
section
/-! DEFINITION. What moves next: the schedule's turn, the device write, the operation or the request an agent has next,
and the end of an agent's turn (00_scope.md rule R11, 10_state.md rule R24, 20_memory.md rule R67, 60_exceptions.md rules
R273 to R276). -/

namespace Sys2Proof.Machine

/-- What a turn comes to. -/
inductive Fetched where
  /-- No operation runs: the state after the turn. -/
  | quiet (s : State)
  /-- Agent `who` runs an operation in the state given. -/
  | run (who : Agent) (i : Instr) (s : State)
  /-- The clear rendezvous with SEG.RESET at Q's port: Q runs SEG.RESET and P the clear `c`, in one transition from the
  state given (40_mailbox.md rule R128). -/
  | rendezvous (c : Instr) (s : State)
  /-- The request at the port is not offered by the block. -/
  | bad (r : Refusal)

/-- The two operations that clear in a rendezvous (40_mailbox.md rule R128, 45_dispatch_apply.md rule R252). -/
def isClear (i : Instr) : Bool := i == .mbxClr || i == .fClear

/-- The clear that domain P makes next, left of its activity or waiting at its port, and the state without it. -/
def nextClear (s : State) : Option (Instr × State) :=
  match s.pTodo with
  | i :: is => if isClear i then some (i, { s with pTodo := is }) else none
  | [] =>
    match s.pIn with
    | [] => none
    | r :: rs =>
      match decodeRequest s.cfg .p r with
      | .ok i => if isClear i then some (i, { s with pIn := rs }) else none
      | .error _ => none

/-- The clear rendezvous is enabled: domain Q is between ticks, and P's next operation is a clear (40_mailbox.md rule R128).
That P counts as asking for it from the moment the clear is its next operation is the model's choice (DESIGN CHOICE, safe,
notes/assumptions/22.md). -/
def rendezvous (s : State) : Option (Instr × State) :=
  if s.qBusy || !s.pPending.isEmpty then none else nextClear s

/-- An agent takes the request at its port; SEG.RESET is offered only inside the clear rendezvous, with the clear it
belongs to (41_ring_writer.md rule R159, 60_exceptions.md rule R280). -/
def offer (who : Agent) (r : Request) (s : State) : Fetched :=
  match decodeRequest s.cfg who r with
  | .error e => .bad (.badRequest e)
  | .ok i =>
    if !i.wellFormed s.cfg then .bad .illFormed
    else if i = .segReset then
      match rendezvous s with
      | some (c, t) => .rendezvous c t
      | none => .bad .outsideRendezvous
    else .run who i s

/-- Agent P: the device writes of its running command go out one at a time, then an ARRIVE in progress goes on, before the
next request is taken (20_memory.md rule R67, 45_dispatch_apply.md rule R235); with none of them, P is idle
(60_exceptions.md rule R279). -/
def fetchP (s : State) : Fetched :=
  match s.pPending with
  | (l, v) :: ws => .quiet (bramWrite .p l v { s with pPending := ws })
  | [] =>
    match s.pTodo with
    | i :: is => .run .p i { s with pTodo := is }
    | [] =>
      match s.pIn with
      | [] => .quiet s
      | r :: rs => offer .p r { s with pIn := rs }

/-- Agent Q: the device writes of its running command go out one at a time, then a TICK in progress goes on, before the
next request is taken (20_memory.md rule R67, 45_dispatch_apply.md rule R240). -/
def fetchQ (s : State) : Fetched :=
  match s.qPending with
  | (l, v) :: ws => .quiet (endOfTick (bramWrite .q l v { s with qPending := ws }))
  | [] =>
    match s.qTodo with
    | i :: is => .run .q i { s with qTodo := is }
    | [] =>
      match s.qIn with
      | [] => .quiet s
      | r :: rs => offer .q r { s with qIn := rs }

/-- Domain P's answer to a tick pulse, where one is due (rule R256). -/
def fetchEmit (s : State) : Fetched :=
  match s.emitDue with
  | 0 => .quiet s
  | k + 1 => .run .p .ackEmit { s with emitDue := k }

/-- The reset inputs: both low is the power-on reset, one alone is not offered (70_reset_and_hazards.md rules R290 and
R292). -/
def fetchReset (pLow qLow : Bool) (s : State) : Fetched :=
  if pLow && qLow then .quiet (powerOnReset s)
  else if pLow || qLow then .bad .singleDomainReset
  else .quiet s

/-- The next turn; with none left in the schedule the block holds its state (60_exceptions.md rule R279). -/
def fetch (s : State) : Fetched :=
  match s.sched with
  | [] => .quiet s
  | .p :: ts => fetchP { s with sched := ts }
  | .q :: ts => fetchQ { s with sched := ts }
  | .sw k :: ts => .run .sw (.sw k) { s with sched := ts }
  | .sr k :: ts => .run .sr (.sr k) { s with sched := ts }
  | .emit :: ts => fetchEmit { s with sched := ts }
  | .rst pLow qLow :: ts => fetchReset pLow qLow { s with sched := ts }

/-- The commands of the apply engine: what a TICK in progress can have left (45_dispatch_apply.md rule R240). -/
def leftOfTick : Instr → Bool
  | .aWriteMod | .aConfigSilencer | .aHeaderOnly | .aModDelay | .aDrive | .aPointStm | .aGainStm => true
  | .pNop | .mbxPush _ | .mbxClr | .cNop | .mbxPop | .sw _ | .sr _ | .enq | .wNop | .segBeginMod => false
  | .segWriteMod _ _ | .segEndMod | .segBeginPstm | .segWritePstm _ _ | .segEndPstm | .segBeginGstm => false
  | .segWriteGstm _ _ | .segEndGstm | .segReset | .arrive _ | .fDuplicate | .fClear | .fRdCpuVersion => false
  | .fRdFpgaVersion | .fRdFpgaFunction | .fReserved _ | .fSynchronize | .fEnqueue | .ackUpdate => false
  | .ackEmit | .tick | .gPhaseDutyFull | .gPhaseFull | .gPhaseHalf => false

/-- The operations between whose device writes, and before them, those of the other domain may fall: TICK, the commands of
an apply and F.SYNCHRONIZE (20_memory.md rule R67, 45_dispatch_apply.md rules R254 and R258). The global clear
excludes domain Q, and a ring-writer operation from its own port has no Layer 2 beside it (notes/assumptions/9.md). -/
def interleaves (i : Instr) : Bool := i == .fSynchronize || i == .tick || leftOfTick i

/-- The end of a turn in which agent `who` ran operation `i` from `s` to `t`: a command that interleaves leaves its device
writes to the turns that follow, and a TICK with nothing left ends with the turn (rules R67 and R240). -/
def endTurn (who : Agent) (i : Instr) (s t : State) : State :=
  match who with
  | .p => if interleaves i then postWrites .p s t else t
  | .q => endOfTick (if interleaves i then postWrites .q s t else t)
  | .sw => t
  | .sr => t

/-- A previous id under which a frame with message id `id` is no duplicate. -/
def freshPrev (prev id : Byte) : Byte := if prev = id then prev + 1#8 else prev

/-- Domain P in the midst of the ARRIVE of a frame that is no duplicate, its command next. -/
def inArrive (e : Entry) (s : State) : State :=
  arriveFrame e { s with prevId := freshPrev s.prevId e.hdr.messageId, pPending := [] }

end Sys2Proof.Machine
end

