-- ==== Sys2Proof/Machine/Step.lean ====
section
/-! DEFINITION. One step of the block, and the state in which the next step runs a given word. -/

namespace Sys2Proof.Machine

/-- One step: the next turn, and the operation it runs. A command that interleaves leaves its device writes to the turns
that follow. In the rendezvous SEG.RESET and the clear are one transition, so that no TICK, SW or SR falls between them
(40_mailbox.md rule R128, 41_ring_writer.md rule R159). -/
def step (s : State) : Host.Outcome State Fault Refusal :=
  match fetch s with
  | .quiet t => .next t
  | .bad r => .refused r
  | .rendezvous c t => onNext (exec .segReset t) (exec c)
  | .run who i t => onNext (exec i t) fun u => .next (endTurn who i t u)

/-- The state whose next step runs the operation that decodeTableWord reads from the word, the operand words and the
bits above it 0: a `PCMD` byte or a `WCMD` word waits at its port and its agent, idle, has the turn; a Header byte puts
domain P in the midst of the ARRIVE of that frame, the command next; SEG.RESET's word needs a clear that P is about to
make, with which it is one transition; a longer word is the image of a frame at P's port
(notes/assumptions/8.md and 16.md). -/
def State.withFetchWord (s : State) (nbits w : Nat) : State :=
  if nbits = 8 then
    match decodePcmd (BitVec.ofNat 8 w) (zeroEntry s.cfg) with
    | .ok _ =>
      { s with
        sched := .p :: s.sched, pPending := [], pTodo := []
        pIn := .pcmd (BitVec.ofNat 8 w) (zeroEntry s.cfg) :: s.pIn }
    | .error _ =>
      match decodeFrame s.cfg (tableImage s.cfg w) with
      | .ok (.arrive e) => { inArrive e s with sched := .p :: s.sched }
      | _ => s
  else if nbits = 32 then
    let t : State :=
      { s with
        sched := .q :: s.sched, qPending := [], qTodo := []
        qIn := .wcmd (BitVec.ofNat 32 w) (zeroSrc (BitVec.ofNat 32 w)) :: s.qIn }
    if decodeTableWord nbits w = some .segReset then { t with qBusy := false, pPending := [], pTodo := [.mbxClr] } else t
  else { s with sched := .p :: s.sched, pPending := [], pTodo := [], pIn := .frame (tableImage s.cfg w) :: s.pIn }

end Sys2Proof.Machine
end

