-- ==== Sys2Proof/Safety.lean ====
section
/-! DEFINITION. What counts as a safe run, and the terms the statements use: the entries held, the invariants, the
device location of a unit, and the bytes an operation may change. -/

namespace Sys2Proof

open Sys2Proof.Machine

/-! ## Safe runs -/

/-- An outcome without a fault mark and without a refusal. -/
def Completes (o : Result) : Prop := ∃ t, o = .next t

/-- A run of `k` steps that meets no fault mark and no refusal. -/
def SafeRun (k : Nat) (s : State) : Prop := ∃ t, core.run k s = .next t

/-! ## The mailbox -/

/-- The entries held, oldest first: the slots from the read cursor up to the write cursor (40_mailbox.md rules R130 (c)
and R131). -/
def held (s : State) : List Entry :=
  (List.range (dist s.rdBin s.wrBin)).map fun j =>
    s.slots[(s.rdBin + BitVec.ofNat 5 j).toNat]'(s.rdBin + BitVec.ofNat 5 j).isLt

/-- Invariants (a) and (b) of 40_mailbox.md rule R130. -/
abbrev CursorInv (s : State) : Prop :=
  s.wrGray = gray5 s.wrBin ∧ s.rdGray = gray5 s.rdBin ∧
    dist (ungray5 s.rdGrayP) s.rdBin + dist s.rdBin (ungray5 s.wrGrayQ) + dist (ungray5 s.wrGrayQ) s.wrBin ≤ Config.usable

/-! ## The activities in progress -/

/-- What an ARRIVE in progress can have left: a command, the retry loop, the acknowledgment; or a clear that waits
(45_dispatch_apply.md rule R236). -/
def Instr.leftOfArrive : Instr → Bool
  | .mbxClr | .enq | .fDuplicate | .fClear | .fRdCpuVersion | .fRdFpgaVersion | .fRdFpgaFunction => true
  | .fReserved _ | .fSynchronize | .fEnqueue | .ackUpdate => true
  | .pNop | .mbxPush _ | .cNop | .mbxPop | .sw _ | .sr _ | .wNop | .segBeginMod | .segWriteMod _ _ => false
  | .segEndMod | .segBeginPstm | .segWritePstm _ _ | .segEndPstm | .segBeginGstm | .segWriteGstm _ _ => false
  | .segEndGstm | .segReset | .arrive _ | .ackEmit | .tick | .aWriteMod | .aConfigSilencer | .aHeaderOnly => false
  | .aModDelay | .aDrive | .aPointStm | .aGainStm | .gPhaseDutyFull | .gPhaseFull | .gPhaseHalf => false

/-- The activities in progress are of the right kinds, a TICK runs at most two commands, and `q_busy` is 1 exactly while
commands or device writes of a TICK are left (10_state.md rule R30, 45_dispatch_apply.md rules R236 and R240). -/
abbrev ActivityInv (s : State) : Prop :=
  (∀ i ∈ s.pTodo, i.leftOfArrive = true) ∧ (∀ i ∈ s.qTodo, leftOfTick i = true) ∧ s.qTodo.length ≤ 2 ∧
    (s.qBusy = true ↔ s.qTodo ≠ [] ∨ s.qPending ≠ [])

/-- Every Body and every cycle table of the block has `N` elements (rules R32 and R35). -/
abbrev LengthInv (s : State) : Prop :=
  (∀ e ∈ s.slots.toList, e.body.length = s.cfg.n) ∧ s.pStage.body.length = s.cfg.n ∧
    s.qStage.body.length = s.cfg.n ∧ (∀ e ∈ s.qEntry, e.body.length = s.cfg.n) ∧
    s.cycleTab.length = s.cfg.n ∧ (∀ old ∈ s.tabOld, old.length = s.cfg.n)

/-! ## Infinite runs -/

/-- A run without end: each state steps to the next, and between two steps the environment sets the schedule and the inputs
(00_scope.md rule R11). -/
def IsRun (ρ : Nat → State) : Prop :=
  ∀ n, ∃ t, step (ρ n) = .next t ∧
    ρ (n + 1) =
      { t with
        sched := (ρ (n + 1)).sched, pIn := (ρ (n + 1)).pIn, qIn := (ρ (n + 1)).qIn, answers := (ρ (n + 1)).answers }

/-- Step `n` is one of SW that reaches the far end of its path (40_mailbox.md rules R127 and R133). -/
def SwReaches (ρ : Nat → State) (n : Nat) : Prop :=
  (∃ k ts, (ρ n).sched = .sw k :: ts) ∧ (ρ (n + 1)).wrGrayQ = gray5 (ρ n).wrBin

/-- Step `n` is one of SR that reaches the far end of its path. -/
def SrReaches (ρ : Nat → State) (n : Nat) : Prop :=
  (∃ k ts, (ρ n).sched = .sr k :: ts) ∧ (ρ (n + 1)).rdGrayP = gray5 (ρ n).rdBin

/-- Step `n` is one of Q that takes a tick. -/
def TickTaken (ρ : Nat → State) (n : Nat) : Prop :=
  (∃ ts, (ρ n).sched = .q :: ts) ∧ (ρ n).qPending = [] ∧ (ρ n).qTodo = [] ∧ ∃ rs, (ρ n).qIn = .tick :: rs

/-- A run with the only fairness a model may assume: SW and SR step again and again, sooner or later each time to the
far end of their paths, and ticks keep coming (40_mailbox.md rule R133, 00_scope.md rule R11, 70_reset_and_hazards.md rule
R312). -/
def FairRun (ρ : Nat → State) : Prop :=
  IsRun ρ ∧ ∀ n, (∃ m, n ≤ m ∧ SwReaches ρ m) ∧ (∃ m, n ≤ m ∧ SrReaches ρ m) ∧ ∃ m, n ≤ m ∧ TickTaken ρ m

/-! ## Invariants and reset values -/

/-- The values 10_state.md rule R50 gives for the power-on reset; everything it calls unspecified is arbitrary
(70_reset_and_hazards.md rule R290). That no activity is in progress and no device write is due is the model's inference
(DEDUCED, notes/assumptions/15.md). -/
abbrev AfterPowerOn (s : State) : Prop :=
  (s.wrBin = 0#5 ∧ s.rdBin = 0#5 ∧ s.wrGray = 0#5 ∧ s.rdGray = 0#5 ∧ s.wrGrayQ = 0#5 ∧ s.rdGrayP = 0#5) ∧
    s.qBusy = false ∧ s.modCycle = 2#32 ∧ s.stmCycle = 0#32 ∧ s.pTodo = [] ∧ s.qTodo = [] ∧ s.pPending = [] ∧
    s.qPending = []

/-! ## The device memory -/

/-- The byte addresses of the words at some locations, as the segment-base registers stand in `s`. -/
def storedBytes (s : State) (ls : List Loc) : List Nat := ls.flatMap fun l => [s.byteAddr l, s.byteAddr l + 1]

/-- Every byte outside the list reads in `t` as in `s`. -/
def SameBytesOutside (s t : State) (xs : List Nat) : Prop := ∀ x, x ∉ xs → t.mem.readByte x = s.mem.readByte x

/-- The device's word number of word `j` of the unit at logical position `c` of a stream laid out contiguously: segment
`c >> k`, window word `wa(c & (S - 1))` (41_ring_writer.md rules R151 and R162, 20_memory.md rule R68). -/
def deviceWord (ch : Channel) (c j : Nat) : Nat :=
  match ch with
  | .mod => 2 ^ 30 + (c / 2 ^ 15 * 2 ^ 14 + (c % 2 ^ 15 / 2 + j))
  | .pstm => 3 * 2 ^ 30 + (c / 2 ^ 11 * 2 ^ 14 + (c % 2 ^ 11 * 8 + j))
  | .gstm => 3 * 2 ^ 30 + (c / 2 ^ 5 * 2 ^ 14 + (c % 2 ^ 5 * 512 + j))

/-- The bytes of the first `w` words of the `n` units from position `c` on, `step` units apart. -/
def unitBytes (ch : Channel) (c n step w : Nat) : List Nat :=
  (List.range n).flatMap fun i => (List.range w).flatMap fun j =>
    [2 * deviceWord ch (c + step * i) j, 2 * deviceWord ch (c + step * i) j + 1]

/-- The segment-base register of a channel that splits agrees with its counter: it names the counter's segment, or, on a
boundary not yet crossed by a write, the segment before (rules R156 and R162). -/
abbrev BaseTracks (ch : Channel) (s : State) : Prop :=
  s.ctrlReg (ch.baseReg s.cfg) = ch.baseOf (ch.cycle s) ∨
    (ch.off (ch.cycle s) = 0 ∧ ch.cycle s ≠ 0#32 ∧ s.ctrlReg (ch.baseReg s.cfg) = ch.baseOf (ch.cycle s - 1#32))

/-- The two bytes of a `CTRL` register. -/
def regBytes (a : Word) : List Nat := [ctrlAddr a, ctrlAddr a + 1]

/-- A write request to the segment-base register of a channel. -/
def isBaseWrite (ch : Channel) (c : Params) (r : BusReq) : Bool :=
  match r with
  | .write _ (.ctrl a) _ => a == ch.baseReg c
  | .write _ (.modt _) _ => false
  | .write _ (.drvt _) _ => false
  | .write _ (.stmt _) _ => false
  | .read _ _ _ => false

/-- The location of word offset `o` in the slot that pass `k` of a gain write fills (44_gain_writer.md rule R213). -/
def slotLoc (cycle : Count) (k : Nat) (o : SlotOff) : Loc :=
  .stmt (BitVec.ofNat 14 ((cycle.toNat + k) % 32 * 512 + o.toNat))

/-- The locations a list of passes stores to, from counter value `cycle` on. -/
def slotLocs (cycle : Count) (passes : List Pass) : List Loc :=
  passes.zipIdx.flatMap fun pk => pk.1.map fun x => slotLoc cycle pk.2 x.1

/-- Operations one after the other, as the driver of the Layer-1 ports issues them. -/
def execAll : List Instr → State → Result
  | [], s => .next s
  | i :: is, s => onNext (exec i s) (execAll is)

end Sys2Proof
end

