-- ==== Sys2Proof/Certificates/Slice0/Obligations.lean ====
section
/-! DEFINITION. The statements for the provers. Each docstring names the rule of spec/ it comes from. -/

open Sys2Proof Sys2Proof.Machine

/-! ## Encoding -/

/-- Every well-formed operation that a port selects is what its own request decodes to (30_encoding.md rules R91, R92, R100
to R102, R105). -/
def Obligations.EncodedOperationsDecodeBack : Prop :=
  ∀ (c : Params) (i : Instr) (r : Request),
    i.wellFormed c = true → encode i = some r → decodeRequest c i.agent r = .ok i

/-- Every word or image a decoder accepts is the one that encodes the operation it gives: no two command words and no two
frame images of one port mean the same operation (rules R91, R92, R100 to R102). -/
def Obligations.AcceptedWordsAreTheEncodings : Prop :=
  (∀ (w : Byte) (e : Entry) (i : Instr), decodePcmd w e = .ok i → ∃ e', encode i = some (.pcmd w e')) ∧
  (∀ (w : Byte) (i : Instr), decodeCcmd w = .ok i → encode i = some (.ccmd w)) ∧
  (∀ (w : BitVec 32) (src : WSrc) (i : Instr), decodeWcmd w src = .ok i → ∃ src', encode i = some (.wcmd w src')) ∧
  ∀ (c : Params) (image : List Byte) (i : Instr), decodeFrame c image = .ok i → encode i = some (.frame image)

/-- A few command words as rule R102 of 30_encoding.md writes them out, and the PCMD and CCMD bytes of rules R100 and R101. -/
def Obligations.WrittenWordsDecode : Prop :=
  decodePcmd 0x02#8 default = .ok .mbxClr ∧ decodeCcmd 0x01#8 = .ok .mbxPop ∧
  decodeWcmd 0x00000009#32 (.words []) = .ok .segBeginPstm ∧
  decodeWcmd 0x00000202#32 (.words [0x2211#16]) = .ok (.segWriteMod 2#16 [0x2211#16]) ∧
  decodeWcmd 0x00000112#32 (.passes [[]]) = .ok (.segWriteGstm 1#16 [[]]) ∧
  decodeWcmd 0x0000000B#32 (.words []) = .ok .segEndPstm ∧ decodeWcmd 0x00000004#32 (.words []) = .ok .segReset

/-- What the block does not offer at an idle agent's port is refused: a reserved command word (`PCMD` above 2, `CCMD` above
1, a `WCMD` with a zero bit set, a reserved `wop` or `ch`, or a field that must be 0; 30_encoding.md rule R106, last row), a
request at a port of the other domain, a frame image of another length (rules R91 and R92), an operand of the wrong kind or
form (the model's inference, notes/assumptions/19.md), and SEG.RESET outside the clear rendezvous (60_exceptions.md rule
R280, 41_ring_writer.md rule R159). That P asks for the rendezvous exactly when its next operation is MBX.CLR or F.CLEAR and
it has no device write left, so that SEG.RESET is refused in every other state, is the model's choice,
notes/assumptions/22.md. -/
def Obligations.RequestsNotOfferedAreRefused : Prop :=
  (∀ (s : State) (w : Byte) (e : Entry) (ts : List Turn) (rs : List Request),
    s.sched = .p :: ts → s.pPending = [] → s.pTodo = [] → s.pIn = .pcmd w e :: rs → 3 ≤ w.toNat →
      ∃ err, step s = .refused (.badRequest err)) ∧
  (∀ (s : State) (w : Byte) (ts : List Turn) (rs : List Request),
    s.sched = .q :: ts → s.qPending = [] → s.qTodo = [] → s.qIn = .ccmd w :: rs → 2 ≤ w.toNat →
      ∃ err, step s = .refused (.badRequest err)) ∧
  (∀ (s : State) (w : BitVec 32) (src : WSrc) (ts : List Turn) (rs : List Request),
    s.sched = .q :: ts → s.qPending = [] → s.qTodo = [] → s.qIn = .wcmd w src :: rs →
      (w.toNat / 32 % 8 ≠ 0 ∨ w.toNat / 2 ^ 24 ≠ 0 ∨ 5 ≤ w.toNat % 8 ∨ w.toNat / 8 % 4 = 3 ∨
        ((w.toNat % 8 = 0 ∨ w.toNat % 8 = 4) ∧ w.toNat / 8 % 4 ≠ 0) ∨
        (w.toNat % 8 ≠ 2 ∧ w.toNat / 256 % 65536 ≠ 0)) →
      ∃ err, step s = .refused (.badRequest err)) ∧
  (∀ (s : State) (r : Request) (ts : List Turn) (rs : List Request),
    (s.sched = .p :: ts → s.pPending = [] → s.pTodo = [] → s.pIn = r :: rs → r.agent = .q →
      step s = .refused (.badRequest .wrongAgent)) ∧
    (s.sched = .q :: ts → s.qPending = [] → s.qTodo = [] → s.qIn = r :: rs → r.agent = .p →
      step s = .refused (.badRequest .wrongAgent))) ∧
  (∀ (s : State) (image : List Byte) (ts : List Turn) (rs : List Request),
    s.sched = .p :: ts → s.pPending = [] → s.pTodo = [] → s.pIn = .frame image :: rs →
      image.length ≠ 128 + 2 * s.cfg.n → step s = .refused (.badRequest .frameLength)) ∧
  (∀ (s : State) (n : BitVec 16) (ts : List Turn) (rs : List Request), s.sched = .q :: ts → s.qPending = [] → s.qTodo = [] →
    (∀ ps ch, ch = 0#2 ∨ ch = 1#2 → s.qIn = .wcmd (wcmdWord n ch 2) (.passes ps) :: rs →
      step s = .refused (.badRequest .operandKind)) ∧
    (∀ ws, s.qIn = .wcmd (wcmdWord n 2 2) (.words ws) :: rs → step s = .refused (.badRequest .operandKind))) ∧
  (∀ (s : State) (r : Request) (i : Instr) (ts : List Turn) (rs : List Request), i.wellFormed s.cfg = false →
    (s.sched = .p :: ts → s.pPending = [] → s.pTodo = [] → s.pIn = r :: rs → decodeRequest s.cfg .p r = .ok i →
      step s = .refused .illFormed) ∧
    (s.sched = .q :: ts → s.qPending = [] → s.qTodo = [] → s.qIn = r :: rs → decodeRequest s.cfg .q r = .ok i →
      step s = .refused .illFormed)) ∧
  ∀ (s : State) (src : WSrc) (ts : List Turn) (rs : List Request),
    s.sched = .q :: ts → s.qPending = [] → s.qTodo = [] → s.qIn = .wcmd 0x00000004#32 src :: rs →
      (s.qBusy = true ∨ s.pPending ≠ [] ∨ (s.pTodo = [] ∧ s.pIn = []) ∨
        (∃ i is, s.pTodo = i :: is ∧ i ≠ .mbxClr ∧ i ≠ .fClear) ∨
        (s.pTodo = [] ∧ ∃ r ps, s.pIn = r :: ps ∧ decodeRequest s.cfg .p r ≠ .ok .mbxClr)) →
      step s = .refused .outsideRendezvous

/-! ## The step -/

/-- A step makes the device write that the turn's agent has to make next, else runs the operation it has next: what is left
of its activity, else what the request at its port decodes to. F.SYNCHRONIZE, TICK and the commands of an apply leave their
device writes to the turns that follow; a turn of domain Q that leaves no command and no device write of a TICK ends with
`q_busy` = 0 (00_scope.md rule R11, 20_memory.md rule R67, 45_dispatch_apply.md rules R235 and R240). SEG.RESET at Q's port
in the clear rendezvous is one transition with the clear that P has next, so that nothing falls between the two
(40_mailbox.md rule R128, 41_ring_writer.md rule R159, 60_exceptions.md rule R280; when the rendezvous is enabled is the
model's choice, notes/assumptions/22.md). That a step is a turn of a schedule, that requests wait in lists at the ports, and
that what is left of a command stands in lists of its own are the model's choices, notes/assumptions/7.md, 8.md and
9.md. -/
def Obligations.StepRunsTheDecodedOperation : Prop :=
  (∀ (s : State) (ts : List Turn) (l : Loc) (v : Word) (ws : List (Loc × Word)),
    s.sched = .p :: ts → s.pPending = (l, v) :: ws →
      step s = .next (bramWrite .p l v { s with sched := ts, pPending := ws })) ∧
  (∀ (s : State) (ts : List Turn) (l : Loc) (v : Word) (ws : List (Loc × Word)),
    s.sched = .q :: ts → s.qPending = (l, v) :: ws →
      step s = .next
        { bramWrite .q l v { s with sched := ts, qPending := ws } with
          qBusy := if s.qTodo = [] ∧ ws = [] then false else s.qBusy }) ∧
  (∀ (s : State) (ts : List Turn) (r : Request) (rs : List Request) (i : Instr),
    s.sched = .p :: ts → s.pPending = [] → s.pTodo = [] → s.pIn = r :: rs → decodeRequest s.cfg .p r = .ok i →
      i.wellFormed s.cfg = true → step s = exec i { s with sched := ts, pIn := rs }) ∧
  (∀ (s : State) (ts : List Turn) (r : Request) (rs : List Request) (i : Instr),
    s.sched = .q :: ts → s.qPending = [] → s.qTodo = [] → s.qIn = r :: rs → decodeRequest s.cfg .q r = .ok i →
      i.wellFormed s.cfg = true → i ≠ .segReset →
      step s = onNext (exec i { s with sched := ts, qIn := rs }) fun u =>
        .next (endOfTick
          (if interleaves i then { u with mem := s.mem, bus := s.bus, qPending := newWrites s u } else u))) ∧
  (∀ (s : State) (ts : List Turn) (src : WSrc) (rs : List Request),
    s.sched = .q :: ts → s.qPending = [] → s.qTodo = [] → s.qIn = .wcmd 0x00000004#32 src :: rs →
    s.qBusy = false → s.pPending = [] →
    (∀ c is, s.pTodo = c :: is → c = .mbxClr ∨ c = .fClear →
      step s = onNext (exec .segReset { s with sched := ts, qIn := rs, pTodo := is }) (exec c)) ∧
    (∀ r ps, s.pTodo = [] → s.pIn = r :: ps → decodeRequest s.cfg .p r = .ok .mbxClr →
      step s = onNext (exec .segReset { s with sched := ts, qIn := rs, pIn := ps }) (exec .mbxClr)) ∧
    ((∃ is, s.pTodo = .mbxClr :: is) ∨ (∃ is, s.pTodo = .fClear :: is) ∨
        (s.pTodo = [] ∧ ∃ r ps, s.pIn = r :: ps ∧ decodeRequest s.cfg .p r = .ok .mbxClr) →
      ∃ t, step s = .next t ∧ t.modCycle = 2#32 ∧ t.stmCycle = 0#32 ∧ t.gainMode = s.gainMode ∧ t.wDone = true ∧
        t.wrBin = 0#5 ∧ t.rdBin = 0#5 ∧ t.rdGrayP = 0#5 ∧ t.wrGrayQ = 0#5 ∧ held t = [] ∧ t.qBusy = false ∧
        t.sched = ts ∧ t.qIn = rs ∧ t.qTodo = [] ∧ t.qPending = [])) ∧
  (∀ (s : State) (ts : List Turn) (i : Instr) (is : List Instr),
    s.sched = .p :: ts → s.pPending = [] → s.pTodo = i :: is →
      step s = onNext (exec i { s with sched := ts, pTodo := is }) fun u =>
        .next (if interleaves i then { u with mem := s.mem, bus := s.bus, pPending := newWrites s u } else u)) ∧
  (∀ (s : State) (ts : List Turn) (i : Instr) (is : List Instr),
    s.sched = .q :: ts → s.qPending = [] → s.qTodo = i :: is →
      step s = onNext (exec i { s with sched := ts, qTodo := is }) fun u =>
        .next (endOfTick
          (if interleaves i then { u with mem := s.mem, bus := s.bus, qPending := newWrites s u } else u))) ∧
  (∀ (s : State) (ts : List Turn) (k : Option Cursor), s.sched = .sw k :: ts → step s = exec (.sw k) { s with sched := ts }) ∧
  (∀ (s : State) (ts : List Turn) (k : Option Cursor), s.sched = .sr k :: ts → step s = exec (.sr k) { s with sched := ts }) ∧
  (∀ (s : State) (ts : List Turn) (k : Nat),
    s.sched = .emit :: ts → s.emitDue = k + 1 → step s = exec .ackEmit { s with sched := ts, emitDue := k }) ∧
  (∀ i : Instr, interleaves i = true ↔
    i = .fSynchronize ∨ i = .tick ∨ i = .aWriteMod ∨ i = .aConfigSilencer ∨ i = .aHeaderOnly ∨ i = .aModDelay ∨
      i = .aDrive ∨ i = .aPointStm ∨ i = .aGainStm) ∧
  ∀ u : State, endOfTick u = if u.qTodo = [] ∧ u.qPending = [] then { u with qBusy := false } else u

/-- Device writes go out one request at a time. Between two due writes of the two domains either order may come, each as its
turn does, and of two writes of one `CTRL` register the later stays. A command of an apply, or F.SYNCHRONIZE, whose
domain alone has the turns leaves in the end exactly what its meaning says (20_memory.md rules R67 and R80,
45_dispatch_apply.md rules R254 and R258; that a command's writes wait in a list is the model's choice,
notes/assumptions/9.md). -/
def Obligations.CommandWritesGoOutOneByOne : Prop :=
  (∀ (s : State) (ts : List Turn) (l l' : Loc) (v v' : Word) (ws ws' : List (Loc × Word)),
    s.pPending = (l, v) :: ws → s.qPending = (l', v') :: ws' →
    (∃ t, core.run 2 { s with sched := .p :: .q :: ts } = .next t ∧ t.pPending = ws ∧ t.qPending = ws' ∧
      newRequests s t = [.write .p l v, .write .q l' v'] ∧
      (∀ a, s.mem.wf = true → l = .ctrl a → l' = .ctrl a → t.ctrlReg a = v')) ∧
    ∃ t, core.run 2 { s with sched := .q :: .p :: ts } = .next t ∧ t.pPending = ws ∧ t.qPending = ws' ∧
      newRequests s t = [.write .q l' v', .write .p l v] ∧
      (∀ a, s.mem.wf = true → l = .ctrl a → l' = .ctrl a → t.ctrlReg a = v)) ∧
  (∀ (s u : State) (ts : List Turn) (i : Instr) (is : List Instr),
    leftOfTick i = true → s.qPending = [] → s.qTodo = i :: is → exec i { s with sched := ts, qTodo := is } = .next u →
    ∃ k, core.run (k + 1) { s with sched := List.replicate (k + 1) .q ++ ts } = .next (endOfTick u)) ∧
  ∀ (s u : State) (ts : List Turn) (is : List Instr),
    s.pPending = [] → s.pTodo = .fSynchronize :: is → exec .fSynchronize { s with sched := ts, pTodo := is } = .next u →
    ∃ k, core.run (k + 1) { s with sched := List.replicate (k + 1) .p ++ ts } = .next u

/-- A turn of an agent that has nothing to do uses up the turn alone: with no frame, no tick and no command pending the block
holds its state (60_exceptions.md rule R279). That turns are named by a schedule, and that a schedule that is over stops
every agent, work left or not, are the model's choices, notes/assumptions/7.md. -/
def Obligations.IdleBlockHoldsItsState : Prop :=
  ∀ (s : State) (ts : List Turn),
    (s.sched = [] → step s = .next s) ∧
    (s.sched = .p :: ts → s.pPending = [] → s.pTodo = [] → s.pIn = [] → step s = .next { s with sched := ts }) ∧
    (s.sched = .q :: ts → s.qPending = [] → s.qTodo = [] → s.qIn = [] → step s = .next { s with sched := ts }) ∧
    (s.sched = .emit :: ts → s.emitDue = 0 → step s = .next { s with sched := ts })

/-- No operation is turned away, and the only stops are the three fault marks of the operations that raise them, with the
counter and the count, or the cursors, that they record: for A.POINT_STM the count of Body word 0 and the counter, 0 in a head
frame; for A.WRITE_MOD `size` and the counter of a frame that appends (60_exceptions.md rules R270 and R272); through Layer 2,
A.WRITE_MOD and A.GAIN_STM never overrun (41_ring_writer.md rule R161). -/
def Obligations.OnlyTheThreeFaultMarksStop : Prop :=
  (∀ (i : Instr) (s : State) (r : Refusal), exec i s ≠ .refused r) ∧
  ∀ (i : Instr) (s : State) (r : Fault), exec i s = .fault r →
    (∃ n src, i = .segWriteMod n src ∧
      (r = .segOverrun .mod s.modCycle n ∨ r = .modOddOffset s.modCycle n)) ∨
    (∃ n src, i = .segWritePstm n src ∧ r = .segOverrun .pstm s.stmCycle n) ∨
    (∃ m ps, i = .segWriteGstm m ps ∧ r = .segOverrun .gstm s.stmCycle m) ∨
    (i = .aPointStm ∧
      r = .segOverrun .pstm (if qHas s s.cfg.cpuStmBegin then 0#32 else s.stmCycle)
        (bodyWord s.qStage.body s.draws 0)) ∨
    (i = .aWriteMod ∧ qHas s s.cfg.cpuModBegin = false ∧
      r = .modOddOffset s.modCycle (s.qStage.hdr.size.zeroExtend 16)) ∨
    ((i = .enq ∨ i = .fEnqueue) ∧ s.cfg.retryLimit ≠ none ∧ r = .mailboxOverflow s.wrBin s.rdGrayP)

/-! ## The mailbox -/

/-- Every advance of a cursor, the wrap included, changes one bit of its Gray code, and the code is the one of the table
(40_mailbox.md rule R121); `gray5` and `ungray5` undo one another (rule R122). -/
def Obligations.GrayCodeChangesOneBit : Prop :=
  (∀ b : Cursor, ungray5 (gray5 b) = b ∧ gray5 (ungray5 b) = b ∧ gray5 b = b ^^^ (b >>> 1) ∧
    ∃ i : Fin 5, gray5 b ^^^ gray5 (b + 1#5) = 1#5 <<< i.val) ∧
  (List.range 32).map (fun b => gray5 (BitVec.ofNat 5 b)) =
    [0x00#5, 0x01#5, 0x03#5, 0x02#5, 0x06#5, 0x07#5, 0x05#5, 0x04#5, 0x0C#5, 0x0D#5, 0x0F#5, 0x0E#5, 0x0A#5, 0x0B#5,
     0x09#5, 0x08#5, 0x18#5, 0x19#5, 0x1B#5, 0x1A#5, 0x1E#5, 0x1F#5, 0x1D#5, 0x1C#5, 0x14#5, 0x15#5, 0x17#5, 0x16#5,
     0x12#5, 0x13#5, 0x11#5, 0x10#5]

/-- MBX.PUSH (40_mailbox.md rule R123), both arms; nothing else of the state changes. -/
def Obligations.PushStoresAndAdvances : Prop :=
  ∀ (e : Entry) (s : State),
    (gray5 (s.wrBin + 1#5) = s.rdGrayP → exec (.mbxPush e) s = .next { s with pOk := false }) ∧
    (gray5 (s.wrBin + 1#5) ≠ s.rdGrayP →
      exec (.mbxPush e) s = .next
        { s with
          slots := s.slots.set s.wrBin.toNat e s.wrBin.isLt
          wrBin := s.wrBin + 1#5
          wrGray := gray5 (s.wrBin + 1#5)
          pOk := true })

/-- MBX.POP (40_mailbox.md rule R124), both arms; nothing else of the state changes. -/
def Obligations.PopCopiesAndAdvances : Prop :=
  ∀ s : State,
    (s.rdGray = s.wrGrayQ → exec .mbxPop s = .next { s with qEntry := none }) ∧
    (s.rdGray ≠ s.wrGrayQ →
      exec .mbxPop s = .next
        { s with
          qEntry := some (s.slots[s.rdBin.toNat]'s.rdBin.isLt)
          rdBin := s.rdBin + 1#5
          rdGray := gray5 (s.rdBin + 1#5) })

/-- A push fails exactly when the producer's view holds 31 entries; that view is never below the true number; with 31
entries held it fails, and a failed push changes nothing but `p_ok` (40_mailbox.md rules R125, R130 (d) and R137 (ii), which
the spec marks as derived). A pop returns none exactly when the read cursor stands at the write cursor the consumer sees; that
view is never above the true number, so an empty mailbox gives none (rules R126 and R130 (d), which the spec marks as
derived). -/
def Obligations.PushAndPopFailExactlyWhenSeen : Prop :=
  ∀ s : State, CursorInv s →
    (∀ e : Entry,
      (held s).length ≤ dist (ungray5 s.rdGrayP) s.wrBin ∧
      ∃ t, exec (.mbxPush e) s = .next t ∧
        (t.pOk = false ↔ dist (ungray5 s.rdGrayP) s.wrBin = 31) ∧
        (t.pOk = false → t = { s with pOk := false }) ∧ ((held s).length = 31 → t.pOk = false)) ∧
    dist s.rdBin (ungray5 s.wrGrayQ) ≤ (held s).length ∧
    ∃ t, exec .mbxPop s = .next t ∧
      (t.qEntry = none ↔ s.rdBin = ungray5 s.wrGrayQ) ∧
      (held s = [] → t = { s with qEntry := none })

/-- SW and SR take a member of their path, leave all else but the count of draws, and can take every member of it
(40_mailbox.md rule R127). -/
def Obligations.SynchronisersKeepToTheirPath : Prop :=
  ∀ (s : State) (k : Option Cursor),
    (∃ v, onPath (ungray5 s.wrGrayQ) s.wrBin v = true ∧
      exec (.sw k) s = .next { s with wrGrayQ := gray5 v, draws := s.draws + 1 }) ∧
    (∀ v, onPath (ungray5 s.wrGrayQ) s.wrBin v = true →
      exec (.sw (some v)) s = .next { s with wrGrayQ := gray5 v, draws := s.draws + 1 }) ∧
    (∃ v, onPath (ungray5 s.rdGrayP) s.rdBin v = true ∧
      exec (.sr k) s = .next { s with rdGrayP := gray5 v, draws := s.draws + 1 }) ∧
    (∀ v, onPath (ungray5 s.rdGrayP) s.rdBin v = true →
      exec (.sr (some v)) s = .next { s with rdGrayP := gray5 v, draws := s.draws + 1 })

/-- In a run in which SW and SR step again and again and sooner or later choose the far end of their paths, a cursor that
stays where it is comes to be seen by the other domain, and stays seen (40_mailbox.md rule R133, 00_scope.md rule R11; what a
run is rests on the schedule, the model's choice, notes/assumptions/7.md). -/
def Obligations.SeenCursorsCatchUp : Prop :=
  ∀ ρ : Nat → State, FairRun ρ → CursorInv (ρ 0) → ∀ n,
    ((∀ m, n ≤ m → (ρ m).wrGray = (ρ n).wrGray) →
      ∃ k, n ≤ k ∧ ∀ m, k ≤ m → (ρ m).wrGrayQ = (ρ n).wrGray) ∧
    ((∀ m, n ≤ m → (ρ m).rdGray = (ρ n).rdGray) →
      ∃ k, n ≤ k ∧ ∀ m, k ≤ m → (ρ m).rdGrayP = (ρ n).rdGray)

/-- MBX.CLR is enabled only when `q_busy` = 0 and is then one transition; otherwise P waits (40_mailbox.md rule R128), which
it does by keeping the clear as its next operation (the model's choice, notes/assumptions/10.md). -/
def Obligations.MailboxClearIsOneTransition : Prop :=
  ∀ s : State,
    (s.qBusy = false →
      exec .mbxClr s = .next
        { s with
          wrBin := 0#5, wrGray := 0#5, rdGrayP := 0#5, rdBin := 0#5, rdGray := 0#5, wrGrayQ := 0#5
          slots := Vector.replicate 32 (zeroEntry s.cfg)
          pStage := zeroEntry s.cfg
          qStage := zeroEntry s.cfg }) ∧
    (s.qBusy = true → exec .mbxClr s = .next { s with pTodo := .mbxClr :: s.pTodo })

/-- P.NOP, C.NOP (40_mailbox.md rule R132), W.NOP (41_ring_writer.md rule R160) and A.HEADER_ONLY (45_dispatch_apply.md rule
R250) change nothing; nor do F.DUPLICATE and F.RESERVED of their own (rules R237 and R245). -/
def Obligations.EmptyOperationsChangeNothing : Prop :=
  ∀ (s : State) (k : BitVec 4),
    exec .pNop s = .next s ∧ exec .cNop s = .next s ∧ exec .wNop s = .next s ∧ exec .aHeaderOnly s = .next s ∧
      exec .fDuplicate s = .next s ∧ exec (.fReserved k) s = .next s

/-- Invariants (a) and (b) of 40_mailbox.md rule R130, which the spec marks as derived, are kept by every step, from every
state that has them. -/
def Obligations.CursorInvariantIsKept : Prop :=
  ∀ s t : State, CursorInv s → step s = .next t → CursorInv t

/-- The mailbox is a first-in first-out queue: a successful push appends its entry, a successful pop takes the oldest, a
clear that fires empties it, and nothing else changes the entries held (40_mailbox.md rule R131, which the spec marks as
derived). -/
def Obligations.MailboxDeliversInOrder : Prop :=
  ∀ (i : Instr) (s t : State), CursorInv s → exec i s = .next t →
    (∀ e, i = .mbxPush e → held t = if t.pOk then held s ++ [e] else held s) ∧
    (i = .enq ∨ i = .fEnqueue → held t = if t.pOk then held s ++ [s.pStage] else held s) ∧
    (i = .mbxPop ∨ i = .tick →
      (∃ e, t.qEntry = some e ∧ held s = e :: held t) ∨ (t.qEntry = none ∧ held t = held s)) ∧
    (i = .mbxClr ∨ i = .fClear → held t = if s.qBusy then held s else []) ∧
    ((∀ e, i ≠ .mbxPush e) → i ≠ .enq → i ≠ .fEnqueue → i ≠ .mbxPop → i ≠ .tick → i ≠ .mbxClr → i ≠ .fClear →
      held t = held s)

/-- After a push into an empty mailbox and an SW step that brings the seen cursor up to date, the next pop returns the
pushed entry (40_mailbox.md rule R126, which the spec marks as derived; 90_conflicts.md C9). -/
def Obligations.PushedEntryIsPoppedAfterSync : Prop :=
  ∀ (e : Entry) (s : State), CursorInv s → held s = [] → fullP s = false →
    ∃ t, execAll [.mbxPush e, .sw (some (s.wrBin + 1#5)), .mbxPop] s = .next t ∧ t.qEntry = some e ∧ held t = []

/-- ENQ, one attempt: a push that succeeds ends the loop; one that fails is counted and the loop goes on, as P's next
operation (the model's choice, notes/assumptions/10.md), but for a finite `RETRY_LIMIT` that the count
reaches, which is the fault mark. F.ENQUEUE is the loop from its first attempt (40_mailbox.md rule R134, 45_dispatch_apply.md rule R246). -/
def Obligations.RetryLoopAttempts : Prop :=
  ∀ s : State,
    (fullP s = false →
      exec .enq s = .next
        { s with
          slots := s.slots.set s.wrBin.toNat s.pStage s.wrBin.isLt
          wrBin := s.wrBin + 1#5
          wrGray := gray5 (s.wrBin + 1#5)
          pOk := true
          pTries := 0 }) ∧
    (fullP s = true → s.cfg.retryLimit ≠ some (s.pTries + 1) →
      exec .enq s = .next { s with pOk := false, pTries := s.pTries + 1, pTodo := .enq :: s.pTodo }) ∧
    (fullP s = true → s.cfg.retryLimit = some (s.pTries + 1) →
      exec .enq s = .fault (.mailboxOverflow s.wrBin s.rdGrayP)) ∧
    exec .fEnqueue s = exec .enq { s with pTries := 0 } ∧
    (fullP s = false →
      exec .fEnqueue s = .next
        { s with
          slots := s.slots.set s.wrBin.toNat s.pStage s.wrBin.isLt
          wrBin := s.wrBin + 1#5
          wrGray := gray5 (s.wrBin + 1#5)
          pOk := true
          pTries := 0 })

/-! ## The ring writer -/

/-- SEG.BEGIN of the three channels: the counter to 0, the segment-base register to 0, nothing else (41_ring_writer.md rule
R158, 42_mod_writer.md rule R181, 43_point_writer.md rule R196, 44_gain_writer.md rule R211); the register then agrees with
the counter. -/
def Obligations.SegBeginClearsCounterAndBase : Prop :=
  ∀ s : State, s.mem.wf = true →
    (∃ t, exec .segBeginMod s = .next t ∧
      t = { s with
            modCycle := 0#32, mem := t.mem, wDone := true
            bus := .write .q (.ctrl s.cfg.aModAddrOffset) 0#16 :: s.bus } ∧
      t.ctrlReg s.cfg.aModAddrOffset = 0#16 ∧ BaseTracks .mod t ∧
      SameBytesOutside s t (regBytes s.cfg.aModAddrOffset)) ∧
    ∀ i : Instr, i = .segBeginPstm ∨ i = .segBeginGstm →
      ∃ t, exec i s = .next t ∧
        t = { s with
              stmCycle := 0#32, mem := t.mem, wDone := true
              bus := .write .q (.ctrl s.cfg.aStmAddrOffset) 0#16 :: s.bus } ∧
        t.ctrlReg s.cfg.aStmAddrOffset = 0#16 ∧ BaseTracks .pstm t ∧
        SameBytesOutside s t (regBytes s.cfg.aStmAddrOffset)

/-- SEG.END of the three channels writes `trunc_16(max(1, cycle) - 1)` to the length register, and nothing else; the counter
stays (41_ring_writer.md rule R157, 42_mod_writer.md rule R183, 43_point_writer.md rule R198, 44_gain_writer.md rule R214). -/
def Obligations.SegEndWritesLength : Prop :=
  ∀ s : State, s.mem.wf = true →
    (∃ t, exec .segEndMod s = .next t ∧
      t = { s with
            mem := t.mem, wDone := true
            bus := .write .q (.ctrl s.cfg.aModCycle) (BitVec.ofNat 16 (max 1 s.modCycle.toNat - 1)) :: s.bus } ∧
      t.ctrlReg s.cfg.aModCycle = BitVec.ofNat 16 (max 1 s.modCycle.toNat - 1) ∧
      SameBytesOutside s t (regBytes s.cfg.aModCycle)) ∧
    ∀ i : Instr, i = .segEndPstm ∨ i = .segEndGstm →
      ∃ t, exec i s = .next t ∧
        t = { s with
              mem := t.mem, wDone := true
              bus := .write .q (.ctrl s.cfg.aStmCycle) (BitVec.ofNat 16 (max 1 s.stmCycle.toNat - 1)) :: s.bus } ∧
        t.ctrlReg s.cfg.aStmCycle = BitVec.ofNat 16 (max 1 s.stmCycle.toNat - 1) ∧
        SameBytesOutside s t (regBytes s.cfg.aStmCycle)

/-- SEG.RESET: `mod_cycle` to 2, `stm_cycle` to 0, no device write, `gain_mode` as it was (41_ring_writer.md rule R159). -/
def Obligations.SegResetSetsCounters : Prop :=
  ∀ s : State, exec .segReset s = .next { s with modCycle := 2#32, stmCycle := 0#32, wDone := true }

/-- SEG.WRITE.MOD lays the samples out contiguously in the device's table, in the segments their positions name, however
the write lies to the boundary; the segment-base register goes on agreeing with the counter; no other byte changes
(41_ring_writer.md rules R155 and R162, 42_mod_writer.md rule R182; the spec marks R162 as derived). Streams stay below
`2^16 × S` samples, as rule R162 says. -/
def Obligations.ModWriteLaysSamplesOut : Prop :=
  ∀ (s : State) (n : BitVec 16) (src : List Word),
    s.mem.wf = true → s.modCycle.toNat % 2 = 0 → src.length = (n.toNat + 1) / 2 →
    n.toNat ≤ 32768 - s.modCycle.toNat % 32768 + 32768 → BaseTracks .mod s → s.modCycle.toNat + n.toNat < 2 ^ 31 →
    ∃ t, exec (.segWriteMod n src) s = .next t ∧
      t = { s with modCycle := s.modCycle + n.zeroExtend 32, mem := t.mem, bus := t.bus, wDone := true } ∧
      BaseTracks .mod t ∧
      (∀ i, i < src.length →
        t.mem.readWord (2 * deviceWord .mod (s.modCycle.toNat + 2 * i) 0) = src.getD i 0#16) ∧
      SameBytesOutside s t (regBytes s.cfg.aModAddrOffset ++ unitBytes .mod s.modCycle.toNat src.length 2 1)

/-- SEG.WRITE.PSTM lays the samples out contiguously, four words at an eight-word stride, and leaves the other four words
of each place and every other byte alone (41_ring_writer.md rules R155 and R162, 43_point_writer.md rules R197 and R200; the
spec marks R162 as derived). -/
def Obligations.PointWriteLaysSamplesOut : Prop :=
  ∀ (s : State) (n : BitVec 16) (src : List Word),
    s.mem.wf = true → src.length = 4 * n.toNat → n.toNat ≤ 2048 - s.stmCycle.toNat % 2048 + 2048 →
    BaseTracks .pstm s → s.stmCycle.toNat + n.toNat < 2 ^ 27 →
    ∃ t, exec (.segWritePstm n src) s = .next t ∧
      t = { s with stmCycle := s.stmCycle + n.zeroExtend 32, mem := t.mem, bus := t.bus, wDone := true } ∧
      BaseTracks .pstm t ∧
      (∀ i j, i < n.toNat → j < 4 →
        t.mem.readWord (2 * deviceWord .pstm (s.stmCycle.toNat + i) j) = src.getD (4 * i + j) 0#16) ∧
      SameBytesOutside s t (regBytes s.cfg.aStmAddrOffset ++ unitBytes .pstm s.stmCycle.toNat n.toNat 1 4)

/-- A run gives the same state, memory and sequence of requests however it is cut in two (modulation at an even sample, points
anywhere): whole or straddling a boundary, cut on the boundary or elsewhere (41_ring_writer.md rules R155, R156 and R162, the
last marked as derived; property S3). -/
def Obligations.RunsDoNotDependOnTheCut : Prop :=
  ∀ (s : State) (a b : BitVec 16) (x y : List Word),
    (x.length = a.toNat / 2 → y.length = (b.toNat + 1) / 2 → a.toNat % 2 = 0 → s.modCycle.toNat % 2 = 0 →
      a.toNat + b.toNat < 2 ^ 16 → s.modCycle.toNat + a.toNat + b.toNat < 2 ^ 32 →
      a.toNat + b.toNat ≤ 32768 - s.modCycle.toNat % 32768 + 32768 →
      execAll [.segWriteMod a x, .segWriteMod b y] s = exec (.segWriteMod (a + b) (x ++ y)) s) ∧
    (x.length = 4 * a.toNat → y.length = 4 * b.toNat → s.stmCycle.toNat + a.toNat + b.toNat < 2 ^ 32 →
      a.toNat + b.toNat ≤ 2048 - s.stmCycle.toNat % 2048 + 2048 →
      execAll [.segWritePstm a x, .segWritePstm b y] s = exec (.segWritePstm (a + b) (x ++ y)) s)

/-- SEG.WRITE of the two channels that split, whatever the counter and the register hold. More units than the room and one
segment are not promised; a write of no units changes nothing but `w_done`; modulation samples at an odd counter are not
promised; every other write completes, makes exactly the writes listed, in that order, advances the counter, and changes
nothing else (41_ring_writer.md rule R155, 42_mod_writer.md rule R182, 43_point_writer.md rule R197). -/
def Obligations.SegWriteMakesTheListedWrites : Prop :=
  ∀ (s : State) (n : BitVec 16) (src : List Word),
    ((32768 - s.modCycle.toNat % 32768 + 32768 < n.toNat →
        exec (.segWriteMod n src) s = .fault (.segOverrun .mod s.modCycle n)) ∧
      (n = 0#16 → exec (.segWriteMod n src) s = .next { s with wDone := true }) ∧
      (n ≠ 0#16 → n.toNat ≤ 32768 - s.modCycle.toNat % 32768 + 32768 → s.modCycle.toNat % 2 = 1 →
        exec (.segWriteMod n src) s = .fault (.modOddOffset s.modCycle n)) ∧
      (n ≠ 0#16 → n.toNat ≤ 32768 - s.modCycle.toNat % 32768 + 32768 → s.modCycle.toNat % 2 = 0 →
        src.length = (n.toNat + 1) / 2 →
        ∃ ws, exec (.segWriteMod n src) s =
            .next { bramWrites .q ws s with modCycle := s.modCycle + n.zeroExtend 32, wDone := true } ∧
          ws = (if s.modCycle.toNat % 32768 = 0 ∧ s.modCycle ≠ 0#32 then
              [(.ctrl s.cfg.aModAddrOffset, BitVec.ofNat 16 (s.modCycle.toNat / 32768))] else []) ++
            (if n.toNat ≤ 32768 - s.modCycle.toNat % 32768 then
              (List.range ((n.toNat + 1) / 2)).map fun j =>
                (.modt (BitVec.ofNat 14 (s.modCycle.toNat % 32768 / 2 + j)), src.getD j 0#16)
            else
              ((List.range ((32768 - s.modCycle.toNat % 32768) / 2)).map fun j =>
                (.modt (BitVec.ofNat 14 (s.modCycle.toNat % 32768 / 2 + j)), src.getD j 0#16)) ++
              [(.ctrl s.cfg.aModAddrOffset, BitVec.ofNat 16 ((s.modCycle.toNat / 32768 + 1) % 2 ^ 17))] ++
              ((List.range ((n.toNat - (32768 - s.modCycle.toNat % 32768) + 1) / 2)).map fun j =>
                (.modt (BitVec.ofNat 14 j), src.getD ((32768 - s.modCycle.toNat % 32768) / 2 + j) 0#16))))) ∧
    ((2048 - s.stmCycle.toNat % 2048 + 2048 < n.toNat →
        exec (.segWritePstm n src) s = .fault (.segOverrun .pstm s.stmCycle n)) ∧
      (n = 0#16 → exec (.segWritePstm n src) s = .next { s with wDone := true }) ∧
      (n ≠ 0#16 → n.toNat ≤ 2048 - s.stmCycle.toNat % 2048 + 2048 → src.length = 4 * n.toNat →
        ∃ ws, exec (.segWritePstm n src) s =
            .next { bramWrites .q ws s with stmCycle := s.stmCycle + n.zeroExtend 32, wDone := true } ∧
          ws = (if s.stmCycle.toNat % 2048 = 0 ∧ s.stmCycle ≠ 0#32 then
              [(.ctrl s.cfg.aStmAddrOffset, BitVec.ofNat 16 (s.stmCycle.toNat / 2048))] else []) ++
            (if n.toNat ≤ 2048 - s.stmCycle.toNat % 2048 then
              (List.range n.toNat).flatMap fun i => (List.range 4).map fun j =>
                (.stmt (BitVec.ofNat 14 ((s.stmCycle.toNat % 2048 + i) * 8 + j)), src.getD (4 * i + j) 0#16)
            else
              ((List.range (2048 - s.stmCycle.toNat % 2048)).flatMap fun i => (List.range 4).map fun j =>
                (.stmt (BitVec.ofNat 14 ((s.stmCycle.toNat % 2048 + i) * 8 + j)), src.getD (4 * i + j) 0#16)) ++
              [(.ctrl s.cfg.aStmAddrOffset, BitVec.ofNat 16 ((s.stmCycle.toNat / 2048 + 1) % 2 ^ 21))] ++
              ((List.range (n.toNat - (2048 - s.stmCycle.toNat % 2048))).flatMap fun i => (List.range 4).map fun j =>
                (.stmt (BitVec.ofNat 14 (i * 8 + j)),
                  src.getD (4 * (2048 - s.stmCycle.toNat % 2048 + i) + j) 0#16)))))

/-- The segment-base register is written exactly once for each boundary: at the straddle, or at the start of the next write
when the one before ended on the boundary, and never by a write that neither crosses nor starts on one; the value is the
counter's segment, truncated (41_ring_writer.md rule R156, 20_memory.md rule R69). -/
def Obligations.BaseIsWrittenOncePerBoundary : Prop :=
  ∀ (s t : State) (n : BitVec 16) (src : List Word),
    (exec (.segWriteMod n src) s = .next t →
      (newRequests s t).filter (isBaseWrite .mod s.cfg) =
        (if n ≠ 0#16 ∧ s.modCycle.toNat % 32768 = 0 ∧ s.modCycle ≠ 0#32 then
          [.write .q (.ctrl s.cfg.aModAddrOffset) (BitVec.ofNat 16 (s.modCycle.toNat / 32768))] else []) ++
        (if 32768 - s.modCycle.toNat % 32768 < n.toNat then
          [.write .q (.ctrl s.cfg.aModAddrOffset)
            (BitVec.ofNat 16 ((s.modCycle.toNat / 32768 + 1) % 2 ^ 17))] else [])) ∧
    (exec (.segWritePstm n src) s = .next t →
      (newRequests s t).filter (isBaseWrite .pstm s.cfg) =
        (if n ≠ 0#16 ∧ s.stmCycle.toNat % 2048 = 0 ∧ s.stmCycle ≠ 0#32 then
          [.write .q (.ctrl s.cfg.aStmAddrOffset) (BitVec.ofNat 16 (s.stmCycle.toNat / 2048))] else []) ++
        (if 2048 - s.stmCycle.toNat % 2048 < n.toNat then
          [.write .q (.ctrl s.cfg.aStmAddrOffset)
            (BitVec.ofNat 16 ((s.stmCycle.toNat / 2048 + 1) % 2 ^ 21))] else []))

/-- SEG.WRITE.GSTM: pass `k` fills slot `(stm_cycle + k) mod 32` of the window under the segment-base register as it
stands, the counter advances by `m`, and the register is then written exactly when the counter is a multiple of 32; the
requests come in that order, and no other byte changes. More than 32 cycles are not promised (44_gain_writer.md rule
R213). -/
def Obligations.GainWriteFillsSlots : Prop :=
  ∀ (s : State) (m : BitVec 16) (passes : List Pass),
    (32 < m.toNat → exec (.segWriteGstm m passes) s = .fault (.segOverrun .gstm s.stmCycle m)) ∧
    (s.mem.wf = true → m.toNat ≤ 32 → passes.length = m.toNat → passes.all Pass.ascending = true →
    ∃ t, exec (.segWriteGstm m passes) s = .next t ∧
      t = { s with stmCycle := s.stmCycle + m.zeroExtend 32, mem := t.mem, bus := t.bus, wDone := true } ∧
      newRequests s t =
        (passes.zipIdx.flatMap fun pk => pk.1.map fun x => .write .q (slotLoc s.stmCycle pk.2 x.1) x.2) ++
          (if (s.stmCycle.toNat + m.toNat) % 32 = 0 then
            [.write .q (.ctrl s.cfg.aStmAddrOffset) (trunc16 ((s.stmCycle + m.zeroExtend 32) >>> 5))] else []) ∧
      (∀ k p x, passes[k]? = some p → x ∈ p → t.mem.readWord (s.byteAddr (slotLoc s.stmCycle k x.1)) = x.2) ∧
      ((s.stmCycle.toNat + m.toNat) % 32 = 0 →
        t.stmBase = trunc16 ((s.stmCycle + m.zeroExtend 32) >>> 5)) ∧
      ((s.stmCycle.toNat + m.toNat) % 32 ≠ 0 → t.stmBase = s.stmBase) ∧
      SameBytesOutside s t (regBytes s.cfg.aStmAddrOffset ++ storedBytes s (slotLocs s.stmCycle passes)))

/-- A gain stream whose writes all give the same number of cycles, 1, 2 or 4, stays aligned: the base register agrees with
the counter before and after each write, and the slot of logical cycle `c` is at device location
`(c >> 5, (c & 31) << 9 + o)` (44_gain_writer.md rule R223, which the spec marks as derived). -/
def Obligations.AlignedGainStreamIsContiguous : Prop :=
  ∀ (s : State) (m : BitVec 16) (passes : List Pass),
    s.mem.wf = true → m = 1#16 ∨ m = 2#16 ∨ m = 4#16 → passes.length = m.toNat → passes.all Pass.ascending = true →
    s.stmCycle.toNat % m.toNat = 0 → s.stmCycle.toNat + m.toNat < 2 ^ 21 →
    s.stmBase = BitVec.ofNat 16 (s.stmCycle.toNat / 32) →
    ∃ t, exec (.segWriteGstm m passes) s = .next t ∧ t.stmCycle.toNat = s.stmCycle.toNat + m.toNat ∧
      t.stmCycle.toNat % m.toNat = 0 ∧ t.stmBase = BitVec.ofNat 16 (t.stmCycle.toNat / 32) ∧
      ∀ k p x, passes[k]? = some p → x ∈ p →
        t.mem.readWord (2 * deviceWord .gstm (s.stmCycle.toNat + k) x.1.toNat) = x.2

/-- After a stream started by SEG.BEGIN, with SEG.WRITEs totalling `total` units (below `2^16`), SEG.END writes
`max(1, total) - 1` to the length register: each channel, however the stream was cut into writes that fit one segment, the
modulation writes but the last of even length (41_ring_writer.md rule R163, which the spec marks as derived). -/
def Obligations.LengthRegisterLaw : Prop :=
  ∀ s : State, s.mem.wf = true →
    (∀ ws : List (BitVec 16 × List Word),
      (∀ w ∈ ws, w.1.toNat ≤ 32768) → (∀ w ∈ ws.dropLast, w.1.toNat % 2 = 0) →
      (ws.map fun w => w.1.toNat).sum < 2 ^ 16 →
      ∃ t, execAll (.segBeginMod :: ws.map (fun w => .segWriteMod w.1 w.2) ++ [.segEndMod]) s = .next t ∧
        t.modCycle.toNat = (ws.map fun w => w.1.toNat).sum ∧
        t.ctrlReg s.cfg.aModCycle = BitVec.ofNat 16 (max 1 (ws.map fun w => w.1.toNat).sum - 1)) ∧
    (∀ ws : List (BitVec 16 × List Word),
      (∀ w ∈ ws, w.1.toNat ≤ 2048) → (ws.map fun w => w.1.toNat).sum < 2 ^ 16 →
      ∃ t, execAll (.segBeginPstm :: ws.map (fun w => .segWritePstm w.1 w.2) ++ [.segEndPstm]) s = .next t ∧
        t.stmCycle.toNat = (ws.map fun w => w.1.toNat).sum ∧
        t.ctrlReg s.cfg.aStmCycle = BitVec.ofNat 16 (max 1 (ws.map fun w => w.1.toNat).sum - 1)) ∧
    (∀ ws : List (BitVec 16 × List Pass),
      (∀ w ∈ ws, w.1.toNat ≤ 32) → (ws.map fun w => w.1.toNat).sum < 2 ^ 16 →
      ∃ t, execAll (.segBeginGstm :: ws.map (fun w => .segWriteGstm w.1 w.2) ++ [.segEndGstm]) s = .next t ∧
        t.stmCycle.toNat = (ws.map fun w => w.1.toNat).sum ∧
        t.ctrlReg s.cfg.aStmCycle = BitVec.ofNat 16 (max 1 (ws.map fun w => w.1.toNat).sum - 1))

/-- A cycle counter is changed only by SEG.BEGIN, SEG.WRITE and SEG.RESET, or by a Layer-2 command that contains one of
them (41_ring_writer.md rule R154). -/
def Obligations.CountersChangeOnlyByTheWriter : Prop :=
  ∀ (i : Instr) (s t : State), exec i s = .next t →
    (t.modCycle ≠ s.modCycle →
      i = .segBeginMod ∨ (∃ n src, i = .segWriteMod n src) ∨ i = .segReset ∨ i = .fClear ∨ i = .aWriteMod) ∧
    (t.stmCycle ≠ s.stmCycle →
      i = .segBeginPstm ∨ i = .segBeginGstm ∨ (∃ n src, i = .segWritePstm n src) ∨
        (∃ m ps, i = .segWriteGstm m ps) ∨ i = .segReset ∨ i = .fClear ∨ i = .aPointStm ∨ i = .aGainStm)

/-! ## The arrival path -/

/-- ARRIVE: the frame is copied to `p_stage`; for a frame that is no duplicate `prev_id` and `reads_info` are written
before its command (45_dispatch_apply.md rules R236, R238, R239). That the command and ACK.UPDATE are left as P's next
operations is the model's choice, notes/assumptions/9.md. -/
def Obligations.ArrivalSelectsTheCommand : Prop :=
  ∀ (e : Entry) (s : State),
    (e.hdr.messageId = s.prevId →
      exec (.arrive e) s = .next
        { s with pStage := e, pReply := none, pTodo := [.fDuplicate, .ackUpdate] }) ∧
    (e.hdr.messageId ≠ s.prevId →
      exec (.arrive e) s = .next
        { s with
          pStage := e, pReply := none, pTodo := [commandOf s.cfg e.hdr, .ackUpdate]
          prevId := e.hdr.messageId
          readsInfo := hasFpga e.hdr.fpgaFlags s.cfg.fpgaReadsFpgaInfo })

/-- The frame-level map by `message_id`, row by row (30_encoding.md rule R103). -/
def Obligations.MessageIdSelectsTheCommand : Prop :=
  ∀ (c : Params) (prev : Byte) (h : Header),
    (h.messageId = prev → dispatch c prev h = .fDuplicate) ∧
    (h.messageId ≠ prev →
      (h.messageId = 0x00#8 → dispatch c prev h = .fClear) ∧
      (h.messageId = 0x01#8 → dispatch c prev h = .fRdCpuVersion) ∧
      (h.messageId = 0x03#8 → dispatch c prev h = .fRdFpgaVersion) ∧
      (h.messageId = 0x04#8 → dispatch c prev h = .fRdFpgaFunction) ∧
      (0xF1 ≤ h.messageId.toNat → ∃ k : BitVec 4, k ≠ 0#4 ∧ h.messageId.toNat = 0xF0 + k.toNat ∧
        dispatch c prev h = .fReserved k) ∧
      (h.messageId = 0x02#8 ∨ (0x05 ≤ h.messageId.toNat ∧ h.messageId.toNat ≤ 0xF0) →
        dispatch c prev h =
          if h.cpuFlags &&& c.cpuMod = 0#8 ∧ h.cpuFlags &&& c.cpuConfigSync ≠ 0#8 then .fSynchronize else .fEnqueue))

/-- F.CLEAR, the global clear, between two ticks: the counters, the cursors, the storage and the acknowledgment state it
resets, the requests it makes, in order, what the device then holds, and that nothing else changes; while an apply is in
flight it waits (45_dispatch_apply.md rule R252), which it does as P's next operation (the model's choice,
notes/assumptions/10.md). -/
def Obligations.GlobalClearReinitialises : Prop :=
  (∀ s : State, s.qBusy = true → exec .fClear s = .next { s with pTodo := .fClear :: s.pTodo }) ∧
  ∀ s : State, s.cfg.Valid → s.mem.wf = true → s.qBusy = false →
    ∃ t, exec .fClear s = .next t ∧
      t = { s with
            readsInfo := false, ack := 0#16, modCycle := 2#32, stmCycle := 0#32, wDone := true
            wrBin := 0#5, wrGray := 0#5, rdGrayP := 0#5, rdBin := 0#5, rdGray := 0#5, wrGrayQ := 0#5
            slots := Vector.replicate 32 (zeroEntry s.cfg)
            pStage := zeroEntry s.cfg
            qStage := zeroEntry s.cfg
            mem := t.mem, bus := t.bus } ∧
      held t = [] ∧
      newRequests s t =
        [.write .p (.ctrl s.cfg.aCtlReg) s.cfg.fpgaLegacyMode, .write .p (.ctrl s.cfg.aSilentStep) s.cfg.silentStepDefault,
          .write .p (.ctrl s.cfg.aSilentCycle) s.cfg.silentCycleDefault, .write .p (.ctrl s.cfg.aModAddrOffset) 0#16,
          .write .p (.ctrl s.cfg.aStmAddrOffset) 0#16, .write .p (.modt 0#14) 0#16] ++
        ((List.range s.cfg.drvWords).map fun a => .write .p (.drvt (BitVec.ofNat 16 a)) 0#16) ∧
      t.ctrlReg s.cfg.aCtlReg = s.cfg.fpgaLegacyMode ∧ t.ctrlReg s.cfg.aSilentStep = s.cfg.silentStepDefault ∧
      t.ctrlReg s.cfg.aSilentCycle = s.cfg.silentCycleDefault ∧ t.modBase = 0#16 ∧ t.stmBase = 0#16 ∧
      t.mem.readWord (t.byteAddr (.modt 0#14)) = 0#16 ∧
      (∀ a, a < s.cfg.drvWords → t.mem.readWord (t.byteAddr (.drvt (BitVec.ofNat 16 a))) = 0#16) ∧
      SameBytesOutside s t
        (regBytes s.cfg.aCtlReg ++ regBytes s.cfg.aSilentStep ++ regBytes s.cfg.aSilentCycle ++
          regBytes s.cfg.aModAddrOffset ++ regBytes s.cfg.aStmAddrOffset ++
          storedBytes t (.modt 0#14 :: (List.range s.cfg.drvWords).map fun a => .drvt (BitVec.ofNat 16 a)))

/-- The three version reads: the reply they set and the device word they read (45_dispatch_apply.md rules R242, R243 and
R244); the word is the environment's next answer (20_memory.md rule R61). -/
def Obligations.VersionReadsReplyOneByte : Prop :=
  ∀ s : State,
    exec .fRdCpuVersion s = .next { s with pReply := some (s.cfg.cpuVersion.zeroExtend 16) } ∧
    exec .fRdFpgaVersion s = .next
      { s with
        pReply := some (nextAnswer s &&& 0x00FF#16), answers := s.answers.tail, draws := s.draws + 1
        bus := .read .p (.ctrl s.cfg.aVersion) (nextAnswer s) :: s.bus } ∧
    exec .fRdFpgaFunction s = .next
      { s with
        pReply := some (nextAnswer s >>> 8), answers := s.answers.tail, draws := s.draws + 1
        bus := .read .p (.ctrl s.cfg.aVersion) (nextAnswer s) :: s.bus } ∧
    ∀ (v : Word) (rest : List Word), s.answers = v :: rest → nextAnswer s = v

/-- F.SYNCHRONIZE: the device's cycle table, the timestamp, the control register with `SYNC`, in that order, the retained
copy, and nothing else, whatever domain Q is doing (45_dispatch_apply.md rule R254). This is the operation by itself: what a
step leaves of it to later turns is in StepRunsTheDecodedOperation and CommandWritesGoOutOneByOne. That the cycle-table race
of rule R79 of 20_memory.md starts here (`tabOld`) is the model's inference, notes/assumptions/13.md. -/
def Obligations.SynchronizeWritesTheTables : Prop :=
  ∀ s : State, s.cfg.Valid → s.mem.wf = true → s.pStage.body.length = s.cfg.n →
    ∃ t, exec .fSynchronize s = .next t ∧
      t = { s with
            cycleTab := s.pStage.body, tabOld := some s.cycleTab, draws := s.draws + 1
            mem := t.mem, bus := t.bus } ∧
      newRequests s t =
        ((List.range s.cfg.n).map fun i =>
          .write .p (.ctrl (s.cfg.aCycleBase + BitVec.ofNat 16 i)) (s.pStage.body.getD i 0#16)) ++
        ((List.range s.cfg.syncTimeWords).map fun j =>
          .write .p (.ctrl (s.cfg.aSyncTime0 + BitVec.ofNat 16 j)) (Config.syncTimeOf s.pStage.hdr j)) ++
        [.write .p (.ctrl s.cfg.aCtlReg) (s.pStage.hdr.fpgaFlags.zeroExtend 16 ||| s.cfg.fpgaSync)] ∧
      (∀ i, i < s.cfg.n → t.ctrlReg (s.cfg.aCycleBase + BitVec.ofNat 16 i) = s.pStage.body.getD i 0#16) ∧
      (∀ j, j < s.cfg.syncTimeWords →
        t.ctrlReg (s.cfg.aSyncTime0 + BitVec.ofNat 16 j) = Config.syncTimeOf s.pStage.hdr j) ∧
      t.ctrlReg s.cfg.aCtlReg = s.pStage.hdr.fpgaFlags.zeroExtend 16 ||| s.cfg.fpgaSync ∧
      SameBytesOutside s t
        (storedBytes s ((List.range s.cfg.n).map fun i => .ctrl (s.cfg.aCycleBase + BitVec.ofNat 16 i)) ++
          storedBytes s ((List.range s.cfg.syncTimeWords).map fun j => .ctrl (s.cfg.aSyncTime0 + BitVec.ofNat 16 j)) ++
          regBytes s.cfg.aCtlReg)

/-- ACK.UPDATE: the high byte is `prev_id`; the low byte the device's status byte, else the reply's low byte, else as it
was; both the register and the port take it. ACK.EMIT drives the stored word out again and changes nothing else
(45_dispatch_apply.md rules R255 and R256). That the cycle-table race of rule R79 of 20_memory.md ends with ACK.UPDATE
(`tabOld := none`) is the model's inference, notes/assumptions/13.md; that the status word is the next listed answer, or a
free word, is its choice of form, notes/assumptions/12.md. -/
def Obligations.AcknowledgmentIsRecomputedAndRedriven : Prop :=
  ∀ s : State,
    exec .ackEmit s = .next { s with ackOut := s.ack } ∧
    (s.readsInfo = true →
      exec .ackUpdate s = .next
        { s with
          ack := wordOf (loByte (nextAnswer s)) s.prevId, ackOut := wordOf (loByte (nextAnswer s)) s.prevId
          tabOld := none, answers := s.answers.tail, draws := s.draws + 1
          bus := .read .p (.ctrl s.cfg.aFpgaInfo) (nextAnswer s) :: s.bus }) ∧
    (∀ r : Word, s.readsInfo = false → s.pReply = some r →
      exec .ackUpdate s = .next
        { s with ack := wordOf (loByte r) s.prevId, ackOut := wordOf (loByte r) s.prevId, tabOld := none }) ∧
    (s.readsInfo = false → s.pReply = none →
      exec .ackUpdate s = .next
        { s with ack := wordOf (loByte s.ack) s.prevId, ackOut := wordOf (loByte s.ack) s.prevId, tabOld := none })

/-- A frame with the id of the one before it: three turns of P take it, and of the whole state only `p_stage` and what
ACK.UPDATE writes are new; the high byte stays, the low byte is the status byte where `reads_info` is set, else as it was
(45_dispatch_apply.md rule R237, property S2). That its ARRIVE is three turns of a schedule is the model's choice,
notes/assumptions/7.md and 9.md; that its ACK.UPDATE ends a cycle-table race (`tabOld := none`) is its inference,
notes/assumptions/13.md. -/
def Obligations.DuplicateFrameOnlyRefreshesTheAck : Prop :=
  ∀ (s : State) (e : Entry) (ts : List Turn) (rs : List Request),
    s.sched = .p :: .p :: .p :: ts → s.pPending = [] → s.pTodo = [] → s.pIn = .frame (encodeEntry e) :: rs →
    e.body.length = s.cfg.n → e.hdr.messageId = s.prevId →
    ∃ t, core.run 3 s = .next t ∧
      t = { s with
            sched := ts, pIn := rs, pStage := e, pReply := none, tabOld := none
            ack := t.ack, ackOut := t.ack, answers := t.answers, draws := t.draws, bus := t.bus } ∧
      hiByte t.ack = s.prevId ∧ loByte t.ack = if s.readsInfo then loByte (nextAnswer s) else loByte s.ack

/-! ## The periodic path -/

/-- TICK: nothing but the empty answer when the mailbox shows none; else the oldest entry is staged, `q_busy` rises, the
control register takes the frame's flags, and the commands the flags select follow; each pulse also asks for one ACK.EMIT
(45_dispatch_apply.md rules R240, R251 and R256). This is the operation by itself: a step leaves the control-register
write to Q's next turn (StepRunsTheDecodedOperation). That, that the commands are left as Q's next operations, and that a count
carries the pulse to domain P, are the model's choices, notes/assumptions/9.md and 24.md. -/
def Obligations.TickPopsAndSelects : Prop :=
  ∀ s : State, s.mem.wf = true →
    (s.rdGray = s.wrGrayQ → exec .tick s = .next { s with qEntry := none, emitDue := s.emitDue + 1 }) ∧
    (s.rdGray ≠ s.wrGrayQ →
      ∃ e t, e = s.slots[s.rdBin.toNat]'s.rdBin.isLt ∧ exec .tick s = .next t ∧
        t = { s with
              qEntry := some e, qStage := e, qBusy := true, qTodo := applyCommands s.cfg e.hdr
              rdBin := s.rdBin + 1#5, rdGray := gray5 (s.rdBin + 1#5), emitDue := s.emitDue + 1, mem := t.mem
              bus := .write .q (.ctrl s.cfg.aCtlReg) (e.hdr.fpgaFlags.zeroExtend 16) :: s.bus } ∧
        t.ctrlReg s.cfg.aCtlReg = e.hdr.fpgaFlags.zeroExtend 16 ∧ SameBytesOutside s t (regBytes s.cfg.aCtlReg))

/-- A frame that is to be enqueued, its id new, at an idle block whose mailbox is empty: it is pushed, acknowledged under its
own id, carried over, and the tick that follows stages it, writes its flags to the control register and has its commands to
run (45_dispatch_apply.md rules R236, R240, R246 and R255, 40_mailbox.md rule R126; that operations are turns of a schedule
is the model's choice, notes/assumptions/7.md and 9.md). -/
def Obligations.EnqueuedFrameReachesTheApplyEngine : Prop :=
  ∀ (s : State) (e : Entry) (ts : List Turn) (rs qs : List Request),
    CursorInv s → held s = [] → fullP s = false → s.mem.wf = true →
    s.sched = .p :: .p :: .p :: .sw (some (s.wrBin + 1#5)) :: .q :: .q :: ts →
    s.pPending = [] → s.pTodo = [] → s.pIn = .frame (encodeEntry e) :: rs →
    s.qPending = [] → s.qTodo = [] → s.qIn = .tick :: qs →
    e.body.length = s.cfg.n → e.hdr.messageId ≠ s.prevId → commandOf s.cfg e.hdr = .fEnqueue →
    ∃ t, core.run 6 s = .next t ∧
      t.qStage = e ∧ t.qBusy = true ∧ t.qTodo = applyCommands s.cfg e.hdr ∧ t.qPending = [] ∧ t.pTodo = [] ∧ held t = [] ∧
      t.prevId = e.hdr.messageId ∧ hiByte t.ack = e.hdr.messageId ∧ t.ackOut = t.ack ∧
      t.ctrlReg s.cfg.aCtlReg = e.hdr.fpgaFlags.zeroExtend 16 ∧
      t.modCycle = s.modCycle ∧ t.stmCycle = s.stmCycle ∧ t.sched = ts ∧ t.pIn = rs ∧ t.qIn = qs

/-- The apply-level map by flags: which commands run and in which order, for every combination of flags (30_encoding.md
rule R104). -/
def Obligations.FlagsSelectTheCommands : Prop :=
  ∀ (c : Params) (h : Header), ∃ (first : List Instr) (last : Instr), applyCommands c h = first ++ [last] ∧
    (h.cpuFlags &&& c.cpuMod ≠ 0#8 → first = [.aWriteMod]) ∧
    (h.cpuFlags &&& c.cpuMod = 0#8 → h.cpuFlags &&& c.cpuConfigSilencer ≠ 0#8 → first = [.aConfigSilencer]) ∧
    (h.cpuFlags &&& c.cpuMod = 0#8 → h.cpuFlags &&& c.cpuConfigSilencer = 0#8 → first = []) ∧
    (h.cpuFlags &&& c.cpuWriteBody = 0#8 → last = .aHeaderOnly) ∧
    (h.cpuFlags &&& c.cpuWriteBody ≠ 0#8 →
      (h.cpuFlags &&& c.cpuModDelay ≠ 0#8 → last = .aModDelay) ∧
      (h.cpuFlags &&& c.cpuModDelay = 0#8 →
        (h.fpgaFlags.zeroExtend 16 &&& c.fpgaOpMode = 0#16 → last = .aDrive) ∧
        (h.fpgaFlags.zeroExtend 16 &&& c.fpgaOpMode ≠ 0#16 →
          (h.fpgaFlags.zeroExtend 16 &&& c.fpgaStmGainMode = 0#16 → last = .aPointStm) ∧
          (h.fpgaFlags.zeroExtend 16 &&& c.fpgaStmGainMode ≠ 0#16 → last = .aGainStm))))

/-- TICK always ends: after some number of turns of domain Q the commands left have run, their device writes are made and
`q_busy` has fallen, but for a fault mark (45_dispatch_apply.md rule R241, which the spec marks as derived). -/
def Obligations.TickAlwaysEnds : Prop :=
  ∀ (s : State) (ts : List Turn), ActivityInv s →
    ∃ k, (∃ r, core.run k { s with sched := List.replicate k .q ++ ts } = .fault r) ∨
      ∃ t, core.run k { s with sched := List.replicate k .q ++ ts } = .next t ∧
        t.qTodo = [] ∧ t.qPending = [] ∧ t.qBusy = false ∧ t.sched = ts

/-- A.WRITE_MOD on a frame with `MOD_BEGIN`: a new stream of `size` samples from payload byte 4, the divisor from bytes 0
to 3, and with `MOD_END` the length register; no other byte changes (42_mod_writer.md rules R184 and R185). -/
def Obligations.ModHeadFrameStartsTheStream : Prop :=
  ∀ s : State, s.cfg.Valid → s.mem.wf = true → qHas s s.cfg.cpuModBegin = true → s.qStage.hdr.size.toNat ≤ 120 →
    ∃ t, exec .aWriteMod s = .next t ∧
      t = { s with
            modCycle := s.qStage.hdr.size.zeroExtend 32, draws := s.draws + 1, wDone := true
            mem := t.mem, bus := t.bus } ∧
      t.modBase = 0#16 ∧
      t.ctrlReg s.cfg.aModFreqDiv0 = s.qStage.hdr.payload[1] ++ s.qStage.hdr.payload[0] ∧
      t.ctrlReg s.cfg.aModFreqDiv1 = s.qStage.hdr.payload[3] ++ s.qStage.hdr.payload[2] ∧
      (∀ i, i < (s.qStage.hdr.size.toNat + 1) / 2 →
        t.mem.readWord (2 * deviceWord .mod (2 * i) 0) =
          s.qStage.hdr.payload.toList.getD (4 + 2 * i + 1) 0#8 ++ s.qStage.hdr.payload.toList.getD (4 + 2 * i) 0#8) ∧
      (qHas s s.cfg.cpuModEnd = true →
        t.ctrlReg s.cfg.aModCycle = BitVec.ofNat 16 (max 1 s.qStage.hdr.size.toNat - 1)) ∧
      (qHas s s.cfg.cpuModEnd = false → t.ctrlReg s.cfg.aModCycle = s.ctrlReg s.cfg.aModCycle) ∧
      SameBytesOutside s t
        (regBytes s.cfg.aModAddrOffset ++ regBytes s.cfg.aModFreqDiv0 ++ regBytes s.cfg.aModFreqDiv1 ++
          regBytes s.cfg.aModCycle ++ unitBytes .mod 0 ((s.qStage.hdr.size.toNat + 1) / 2) 2 1)

/-- A.WRITE_MOD on a frame without `MOD_BEGIN` appends `size` samples from payload byte 0 by SEG.WRITE.MOD, then SEG.END.MOD
with `MOD_END`; at an even counter it completes (42_mod_writer.md rule R184). -/
def Obligations.ModBodyFrameAppends : Prop :=
  ∀ s : State, qHas s s.cfg.cpuModBegin = false → s.qStage.hdr.size.toNat ≤ 124 →
    exec .aWriteMod s =
      execAll
        (.segWriteMod (s.qStage.hdr.size.zeroExtend 16)
            ((List.range ((s.qStage.hdr.size.toNat + 1) / 2)).map fun i =>
              s.qStage.hdr.payload.toList.getD (2 * i + 1) 0#8 ++ s.qStage.hdr.payload.toList.getD (2 * i) 0#8) ::
          if qHas s s.cfg.cpuModEnd then [.segEndMod] else [])
        { s with draws := s.draws + 1 } ∧
    (s.modCycle.toNat % 2 = 0 →
      ∃ t, exec .aWriteMod s = .next t ∧ t.modCycle = s.modCycle + s.qStage.hdr.size.zeroExtend 32)

/-- A.CONFIG_SILENCER: step and cycle from the payload to the two registers, and nothing else (45_dispatch_apply.md rule
R247). -/
def Obligations.SilencerFrameWritesTwoRegisters : Prop :=
  ∀ s : State, s.cfg.Valid → s.mem.wf = true →
    ∃ t, exec .aConfigSilencer s = .next t ∧ t = { s with mem := t.mem, bus := t.bus } ∧
      newRequests s t =
        [.write .q (.ctrl s.cfg.aSilentStep) (s.qStage.hdr.payload[1] ++ s.qStage.hdr.payload[0]),
         .write .q (.ctrl s.cfg.aSilentCycle) (s.qStage.hdr.payload[3] ++ s.qStage.hdr.payload[2])] ∧
      t.ctrlReg s.cfg.aSilentStep = s.qStage.hdr.payload[1] ++ s.qStage.hdr.payload[0] ∧
      t.ctrlReg s.cfg.aSilentCycle = s.qStage.hdr.payload[3] ++ s.qStage.hdr.payload[2] ∧
      SameBytesOutside s t (regBytes s.cfg.aSilentStep ++ regBytes s.cfg.aSilentCycle)

/-- A.MOD_DELAY copies the Body to the device's delay table, `N` words, ascending, and changes nothing else
(45_dispatch_apply.md rule R249). -/
def Obligations.DelayFrameCopiesTheBody : Prop :=
  ∀ s : State, s.cfg.Valid → s.mem.wf = true → s.qStage.body.length = s.cfg.n →
    ∃ t, exec .aModDelay s = .next t ∧ t = { s with draws := s.draws + 1, mem := t.mem, bus := t.bus } ∧
      newRequests s t = ((List.range s.cfg.n).map fun i =>
        .write .q (.ctrl (s.cfg.aModDelayBase + BitVec.ofNat 16 i)) (s.qStage.body.getD i 0#16)) ∧
      (∀ i, i < s.cfg.n → t.ctrlReg (s.cfg.aModDelayBase + BitVec.ofNat 16 i) = s.qStage.body.getD i 0#16) ∧
      SameBytesOutside s t
        (storedBytes s ((List.range s.cfg.n).map fun i => .ctrl (s.cfg.aModDelayBase + BitVec.ofNat 16 i)))

/-- A.DRIVE makes the writes of `DRIVE_WRITE`, in list order, and nothing else: each word of the drive table reads as the
last one written to it, or as before, and no word at or above `DRV_WORDS` changes (45_dispatch_apply.md rule R248,
10_state.md rule R41). -/
def Obligations.DriveFrameMakesTheListedWrites : Prop :=
  ∀ s : State, s.mem.wf = true →
    ∃ t, exec .aDrive s = .next t ∧ t = { s with mem := t.mem, bus := t.bus } ∧
      newRequests s t =
        (Config.driveWrite s.cfg s.qStage.hdr s.qStage.body).map
          (fun x => .write .q (.drvt (BitVec.ofNat 16 x.1.val)) x.2) ∧
      (∀ a : Word, t.mem.readWord (s.byteAddr (.drvt a)) =
        (((Config.driveWrite s.cfg s.qStage.hdr s.qStage.body).filter
            fun x => BitVec.ofNat 16 x.1.val = a).getLast?.map Prod.snd).getD (s.mem.readWord (s.byteAddr (.drvt a)))) ∧
      (∀ a : Word, s.cfg.drvWords ≤ a.toNat →
        t.mem.readWord (s.byteAddr (.drvt a)) = s.mem.readWord (s.byteAddr (.drvt a))) ∧
      SameBytesOutside s t
        (storedBytes s ((Config.driveWrite s.cfg s.qStage.hdr s.qStage.body).map
          fun x => .drvt (BitVec.ofNat 16 x.1.val)))

/-- A.POINT_STM on a head frame whose count fits the Body: a new stream of `b[0]` samples from `b[5]`, the divisor and the
speed from `b[1]` to `b[4]`, and with `STM_END` the length register; no other byte changes (43_point_writer.md rule R199). -/
def Obligations.PointHeadFrameStartsTheStream : Prop :=
  ∀ (s : State) (n : Word), s.cfg.Valid → s.mem.wf = true → qHas s s.cfg.cpuStmBegin = true →
    s.qStage.body.length = s.cfg.n → s.qStage.body.head? = some n → 5 + 4 * n.toNat ≤ s.cfg.n →
    ∃ t, exec .aPointStm s = .next t ∧
      t = { s with
            stmCycle := n.zeroExtend 32, draws := s.draws + 1, wDone := true, mem := t.mem, bus := t.bus } ∧
      t.stmBase = 0#16 ∧
      t.ctrlReg s.cfg.aStmFreqDiv0 = s.qStage.body.getD 1 0#16 ∧
      t.ctrlReg s.cfg.aStmFreqDiv1 = s.qStage.body.getD 2 0#16 ∧
      t.ctrlReg s.cfg.aSoundSpeed0 = s.qStage.body.getD 3 0#16 ∧
      t.ctrlReg s.cfg.aSoundSpeed1 = s.qStage.body.getD 4 0#16 ∧
      (∀ i j, i < n.toNat → j < 4 →
        t.mem.readWord (2 * deviceWord .pstm i j) = s.qStage.body.getD (5 + 4 * i + j) 0#16) ∧
      (qHas s s.cfg.cpuStmEnd = true → t.ctrlReg s.cfg.aStmCycle = BitVec.ofNat 16 (max 1 n.toNat - 1)) ∧
      (qHas s s.cfg.cpuStmEnd = false → t.ctrlReg s.cfg.aStmCycle = s.ctrlReg s.cfg.aStmCycle) ∧
      SameBytesOutside s t
        (regBytes s.cfg.aStmAddrOffset ++ regBytes s.cfg.aStmFreqDiv0 ++ regBytes s.cfg.aStmFreqDiv1 ++
          regBytes s.cfg.aSoundSpeed0 ++ regBytes s.cfg.aSoundSpeed1 ++ regBytes s.cfg.aStmCycle ++
          unitBytes .pstm 0 n.toNat 1 4)

/-- A.POINT_STM on a continuation frame whose count fits the Body appends `b[0]` samples from `b[1]` by SEG.WRITE.PSTM, then
SEG.END.PSTM with `STM_END`, and completes (43_point_writer.md rule R199). -/
def Obligations.PointBodyFrameAppends : Prop :=
  ∀ (s : State) (n : Word), s.cfg.Valid → qHas s s.cfg.cpuStmBegin = false →
    s.qStage.body.length = s.cfg.n → s.qStage.body.head? = some n → 1 + 4 * n.toNat ≤ s.cfg.n →
    exec .aPointStm s =
      execAll
        (.segWritePstm n ((s.qStage.body.drop 1).take (4 * n.toNat)) ::
          if qHas s s.cfg.cpuStmEnd then [.segEndPstm] else [])
        { s with draws := s.draws + 1 } ∧
    ∃ t, exec .aPointStm s = .next t ∧ t.stmCycle = s.stmCycle + n.zeroExtend 32

/-- A.GAIN_STM on a head frame: the counter and the base register to 0, the divisor and the mode from the Body, with
`STM_END` a length register of 0, no sample written (44_gain_writer.md rule R216). -/
def Obligations.GainHeadFrameSetsTheMode : Prop :=
  ∀ s : State, s.cfg.Valid → s.mem.wf = true → qHas s s.cfg.cpuStmBegin = true → s.qStage.body.length = s.cfg.n →
    ∃ t, exec .aGainStm s = .next t ∧
      t = { s with
            stmCycle := 0#32, gainMode := s.qStage.body.getD 2 0#16, draws := s.draws + 1, wDone := true
            mem := t.mem, bus := t.bus } ∧
      t.stmBase = 0#16 ∧
      t.ctrlReg s.cfg.aStmFreqDiv0 = s.qStage.body.getD 0 0#16 ∧
      t.ctrlReg s.cfg.aStmFreqDiv1 = s.qStage.body.getD 1 0#16 ∧
      (qHas s s.cfg.cpuStmEnd = true → t.ctrlReg s.cfg.aStmCycle = 0#16) ∧
      (qHas s s.cfg.cpuStmEnd = false → t.ctrlReg s.cfg.aStmCycle = s.ctrlReg s.cfg.aStmCycle) ∧
      SameBytesOutside s t
        (regBytes s.cfg.aStmAddrOffset ++ regBytes s.cfg.aStmFreqDiv0 ++ regBytes s.cfg.aStmFreqDiv1 ++
          regBytes s.cfg.aStmCycle)

/-- A.GAIN_STM on a body frame always completes: it is the pass builder of the retained mode, then SEG.WRITE.GSTM of its
result, then SEG.END.GSTM with `STM_END`; the counter advances by the number of cycles of 44_gain_writer.md rule R221
(rules R216 and R217). -/
def Obligations.GainBodyFrameAdvances : Prop :=
  ∀ s : State, qHas s s.cfg.cpuStmBegin = false →
    ∃ (m : Nat) (u t : State),
      m = (if s.gainMode = s.cfg.gdmPhaseFull then (if qLegacy s then 2 else if qIsDuty s then 0 else 1)
        else if s.gainMode = s.cfg.gdmPhaseHalf then (if qLegacy s then 4 else 0) else 1) ∧
      exec (if s.gainMode = s.cfg.gdmPhaseFull then .gPhaseFull
        else if s.gainMode = s.cfg.gdmPhaseHalf then .gPhaseHalf else .gPhaseDutyFull) s = .next u ∧
      u.gainCount = BitVec.ofNat 16 m ∧
      exec .aGainStm s =
        execAll (.segWriteGstm u.gainCount u.gainPasses :: if qHas s s.cfg.cpuStmEnd then [.segEndGstm] else []) u ∧
      exec .aGainStm s = .next t ∧ t.stmCycle = s.stmCycle + BitVec.ofNat 32 m

/-- The two gain properties of the source: a `phase_half` body frame in legacy encoding gives four cycles, each
transducer's nibble doubled under a top byte `0xFF`; a `phase_duty_full` body frame in non-legacy encoding with the duty
flag clear gives one cycle of `N` phase and duty pairs (44_gain_writer.md rule R222, which the spec marks as derived). -/
def Obligations.GainFrameWordsReachTheirSlots : Prop :=
  ∀ s : State, s.cfg.Valid → s.mem.wf = true → qHas s s.cfg.cpuStmBegin = false → qHas s s.cfg.cpuStmEnd = false →
    s.qStage.body.length = s.cfg.n →
    (s.gainMode = s.cfg.gdmPhaseHalf → qLegacy s = true →
      ∃ t, exec .aGainStm s = .next t ∧ t.stmCycle = s.stmCycle + 4#32 ∧
        ∀ q i, q < 4 → i < s.cfg.n →
          t.mem.readWord (s.byteAddr (slotLoc s.stmCycle q (BitVec.ofNat 9 (s.cfg.legacyStride.toNat * i)))) =
            BitVec.ofNat 16 (0xFF00 + (s.qStage.body.getD i 0#16).toNat / 16 ^ q % 16 * 17)) ∧
    (s.gainMode = s.cfg.gdmPhaseDutyFull → qLegacy s = false → qIsDuty s = false →
      ∃ t, exec .aGainStm s = .next t ∧ t.stmCycle = s.stmCycle + 1#32 ∧
        ∀ i, i < s.cfg.n →
          t.mem.readWord (s.byteAddr (slotLoc s.stmCycle 0 (BitVec.ofNat 9 (2 * i)))) =
            Config.phaseOf (s.qStage.body.getD i 0#16) ∧
          t.mem.readWord (s.byteAddr (slotLoc s.stmCycle 0 (BitVec.ofNat 9 (2 * i + 1)))) =
            Config.dutyOf (s.qStage.body.getD i 0#16))

/-- The pass builders, row by row: the passes, their number on the ring writer's operand port, and nothing else but the
count of draws (44_gain_writer.md rules R218 to R221; the cycle table is not being replaced; that the result stands on the
operand port is the model's choice, notes/assumptions/18.md). -/
def Obligations.PassBuildersGiveTheListedWords : Prop :=
  ∀ s : State, s.qStage.body.length = s.cfg.n → s.cycleTab.length = s.cfg.n → s.tabOld = none →
    (∃ ps, exec .gPhaseDutyFull s =
        .next { s with gainCount := 1#16, gainPasses := [ps], draws := s.draws + 1 } ∧
      (qLegacy s = true → ps = (List.range s.cfg.n).map fun i =>
        (BitVec.ofNat 9 (s.cfg.legacyStride.toNat * i), s.qStage.body.getD i 0#16)) ∧
      (qLegacy s = false → qIsDuty s = false → ps = (List.range s.cfg.n).flatMap fun i =>
        [(BitVec.ofNat 9 (2 * i), Config.phaseOf (s.qStage.body.getD i 0#16)),
         (BitVec.ofNat 9 (2 * i + 1), Config.dutyOf (s.qStage.body.getD i 0#16))]) ∧
      (qLegacy s = false → qIsDuty s = true → s.cfg.pdfDutyFrameWrites = .phaseOnly →
        ps = (List.range s.cfg.n).map fun i =>
          (BitVec.ofNat 9 (2 * i), Config.phaseOf (s.qStage.body.getD i 0#16))) ∧
      (qLegacy s = false → qIsDuty s = true → s.cfg.pdfDutyFrameWrites = .dutyOnly →
        ps = (List.range s.cfg.n).map fun i =>
          (BitVec.ofNat 9 (2 * i + 1), Config.dutyOf (s.qStage.body.getD i 0#16)))) ∧
    (qLegacy s = true →
      exec .gPhaseFull s = .next
        { s with
          gainCount := 2#16, draws := s.draws + 1
          gainPasses := [
            (List.range s.cfg.n).map fun i => (BitVec.ofNat 9 (s.cfg.legacyStride.toNat * i),
              0xFF00#16 ||| (s.qStage.body.getD i 0#16 &&& 0x00FF#16)),
            (List.range s.cfg.n).map fun i => (BitVec.ofNat 9 (s.cfg.legacyStride.toNat * i),
              0xFF00#16 ||| (s.qStage.body.getD i 0#16 >>> 8))] } ∧
      exec .gPhaseHalf s = .next
        { s with
          gainCount := 4#16, draws := s.draws + 1
          gainPasses := (List.range 4).map fun q => (List.range s.cfg.n).map fun i =>
            (BitVec.ofNat 9 (s.cfg.legacyStride.toNat * i),
              BitVec.ofNat 16 (0xFF00 + (s.qStage.body.getD i 0#16).toNat / 16 ^ q % 16 * 17)) }) ∧
    (qLegacy s = false →
      exec .gPhaseHalf s = .next { s with gainCount := 0#16, gainPasses := [], draws := s.draws + 1 } ∧
      (qIsDuty s = true →
        exec .gPhaseFull s = .next { s with gainCount := 0#16, gainPasses := [], draws := s.draws + 1 }) ∧
      (qIsDuty s = false →
        exec .gPhaseFull s = .next
          { s with
            gainCount := 1#16, draws := s.draws + 1
            gainPasses := [(List.range s.cfg.n).flatMap fun i =>
              [(BitVec.ofNat 9 (2 * i), s.qStage.body.getD i 0#16),
               (BitVec.ofNat 9 (2 * i + 1), Config.defaultDuty (s.cycleTab.getD i 0#16))]] }))

/-- While a synchronize replaces the cycle table, each element the gain writer reads is the old one or the new one, apart for
each element (20_memory.md rule R79, 44_gain_writer.md rule R219). -/
def Obligations.CycleTableRaceGivesOldOrNew : Prop :=
  ∀ (s : State) (old : List Word),
    s.tabOld = some old → old.length = s.cfg.n → s.cycleTab.length = s.cfg.n → s.qStage.body.length = s.cfg.n →
    qLegacy s = false → qIsDuty s = false →
    ∃ ps, exec .gPhaseFull s = .next { s with gainCount := 1#16, gainPasses := [ps], draws := s.draws + 1 } ∧
      ps.length = 2 * s.cfg.n ∧
      ∀ i, i < s.cfg.n →
        ps[2 * i]? = some (BitVec.ofNat 9 (2 * i), s.qStage.body.getD i 0#16) ∧
        (ps[2 * i + 1]? = some (BitVec.ofNat 9 (2 * i + 1), Config.defaultDuty (old.getD i 0#16)) ∨
          ps[2 * i + 1]? = some (BitVec.ofNat 9 (2 * i + 1), Config.defaultDuty (s.cycleTab.getD i 0#16)))

/-! ## The whole block -/

/-- Every step keeps the device memory in its canonical form and leaves the parameters of 00_scope.md rule R5 as they are
(the form and the parameters' place in State are the model's, notes/assumptions/1.md and 6.md). -/
def Obligations.MemoryFormAndParametersAreKept : Prop :=
  ∀ s t : State, step s = .next t → t.cfg = s.cfg ∧ (s.mem.wf = true → t.mem.wf = true)

/-- Every step keeps the activities in progress of their kinds, `q_busy` = 1 exactly while commands or device writes of a TICK
are left, and every Body and cycle table at `N` elements (10_state.md rules R30, R32 and R35, 45_dispatch_apply.md rules R236 and R240;
what is left of an activity is held in the model's own fields, notes/assumptions/9.md). -/
def Obligations.ActivityAndLengthInvariantsAreKept : Prop :=
  ∀ s t : State, ActivityInv s → LengthInv s → step s = .next t → ActivityInv t ∧ LengthInv t

/-- The state after reset has the values rule R50 of 10_state.md gives, meets every invariant of these statements, and its
parameters meet the constraints of 00_scope.md rule R5 (the parameters' values, those of the unspecified registers, and that
no activity is in progress are the model's choice, notes/assumptions/1.md, 3.md and 15.md). -/
def Obligations.ResetMeetsTheInvariants : Prop :=
  AfterPowerOn State.reset ∧ State.reset.mem.wf = true ∧ CursorInv State.reset ∧ ActivityInv State.reset ∧
    LengthInv State.reset ∧ State.reset.cfg.Valid

/-- The power-on reset, from any state: the values rule R50 of 10_state.md gives, the mailbox empty, nothing written to the
device; and whatever the unspecified registers hold, the cursor invariant and the two conditions follow. A reset of one
domain alone is refused (70_reset_and_hazards.md rules R290 and R292, 40_mailbox.md rule R130). That the reset is one turn of
the schedule, and that it ends both activities in progress and drops the device writes that are due, so that `pTodo`,
`qTodo`, `pPending` and `qPending` are empty after it, are the model's choices, notes/assumptions/15.md; that the refusal
answers a turn with one input low is too, notes/assumptions/29.md. -/
def Obligations.PowerOnResetGivesTheListedValues : Prop :=
  (∀ (s : State) (ts : List Turn),
    (s.sched = .rst true true :: ts →
      ∃ t, step s = .next t ∧ AfterPowerOn t ∧ t.mem = s.mem ∧ t.bus = s.bus ∧ t.cfg = s.cfg ∧ t.sched = ts) ∧
    (s.sched = .rst true false :: ts ∨ s.sched = .rst false true :: ts → step s = .refused .singleDomainReset)) ∧
  ∀ s : State, AfterPowerOn s → CursorInv s ∧ held s = [] ∧ fullP s = false ∧ emptyQ s = true

/-- Who may write what: an operation of domain Q leaves the registers of domain P, the slots and the cycle table; one of
domain P leaves the registers of domain Q, but for the two clears, which change them only when no apply is in flight; and
each register that one rule alone writes is left by every other operation (10_state.md rules R20 and R21,
45_dispatch_apply.md rule R257). No operation touches the device writes that are due, the parameters or the inputs but the
device's answers (fields of the model's own, notes/assumptions/1.md, 8.md and 9.md). -/
def Obligations.DomainsKeepToTheirState : Prop :=
  ∀ (i : Instr) (s t : State), exec i s = .next t →
    (i.agent ≠ .p →
      t.wrBin = s.wrBin ∧ t.wrGray = s.wrGray ∧ t.pStage = s.pStage ∧ t.prevId = s.prevId ∧
      t.readsInfo = s.readsInfo ∧ t.ack = s.ack ∧ t.ackOut = s.ackOut ∧ t.pOk = s.pOk ∧ t.slots = s.slots ∧
      t.cycleTab = s.cycleTab ∧ t.tabOld = s.tabOld ∧ t.pReply = s.pReply ∧ t.pTodo = s.pTodo) ∧
    (i.agent ≠ .q → (i ≠ .mbxClr ∧ i ≠ .fClear) ∨ s.qBusy = true →
      t.rdBin = s.rdBin ∧ t.rdGray = s.rdGray ∧ t.qStage = s.qStage ∧ t.qBusy = s.qBusy ∧ t.qEntry = s.qEntry ∧
      t.modCycle = s.modCycle ∧ t.stmCycle = s.stmCycle ∧ t.gainMode = s.gainMode ∧ t.wDone = s.wDone ∧
      t.qTodo = s.qTodo) ∧
    ((∀ k, i ≠ .sr k) → i ≠ .mbxClr → i ≠ .fClear → t.rdGrayP = s.rdGrayP) ∧
    ((∀ k, i ≠ .sw k) → i ≠ .mbxClr → i ≠ .fClear → t.wrGrayQ = s.wrGrayQ) ∧
    (i ≠ .fSynchronize → t.cycleTab = s.cycleTab) ∧ (i ≠ .aGainStm → t.gainMode = s.gainMode) ∧
    ((∀ e, i ≠ .arrive e) → t.prevId = s.prevId) ∧
    ((∀ e, i ≠ .arrive e) → i ≠ .fClear → t.readsInfo = s.readsInfo) ∧
    (i ≠ .ackUpdate → i ≠ .fClear → t.ack = s.ack) ∧
    (i ≠ .ackUpdate → i ≠ .ackEmit → t.ackOut = s.ackOut) ∧
    (t.pPending = s.pPending ∧ t.qPending = s.qPending ∧ t.cfg = s.cfg ∧ t.sched = s.sched ∧ t.pIn = s.pIn ∧ t.qIn = s.qIn)
end

