-- ==== Sys2Proof/Laws/Bits.lean ====
section
/-! SUPPORT. The bit-field helpers as arithmetic on numbers, and the Gray code of 40_mailbox.md section 2. -/

namespace Sys2Proof.Machine

/-- The number of a word is made of its two bytes. -/
theorem wordOf_toNat (lo hi : Byte) : (wordOf lo hi).toNat = 256 * hi.toNat + lo.toNat := by
  have := lo.isLt
  simp only [wordOf, BitVec.toNat_append]
  rw [Nat.shiftLeft_eq, ← Nat.shiftLeft_eq, ← Nat.shiftLeft_add_eq_or_of_lt lo.isLt, Nat.shiftLeft_eq]
  omega

/-- The low byte is the remainder by 256. -/
theorem loByte_toNat (w : Word) : (loByte w).toNat = w.toNat % 256 := by
  simp [loByte, BitVec.extractLsb'_toNat]

/-- The high byte is the quotient by 256. -/
theorem hiByte_toNat (w : Word) : (hiByte w).toNat = w.toNat / 256 := by
  have := w.isLt
  simp only [hiByte, BitVec.extractLsb'_toNat, Nat.shiftRight_eq_div_pow]
  omega

/-- A word is its two bytes. -/
@[simp] theorem wordOf_lo_hi (v : Word) : wordOf (loByte v) (hiByte v) = v := by
  apply BitVec.eq_of_toNat_eq
  rw [wordOf_toNat, loByte_toNat, hiByte_toNat]
  omega

@[simp] theorem loByte_wordOf (lo hi : Byte) : loByte (wordOf lo hi) = lo := by
  apply BitVec.eq_of_toNat_eq
  have := lo.isLt
  rw [loByte_toNat, wordOf_toNat]
  omega

@[simp] theorem hiByte_wordOf (lo hi : Byte) : hiByte (wordOf lo hi) = hi := by
  apply BitVec.eq_of_toNat_eq
  have := lo.isLt
  rw [hiByte_toNat, wordOf_toNat]
  omega

/-! ## Gray code -/

/-- `ungray5` undoes `gray5` (40_mailbox.md rule R122). -/
@[simp] theorem ungray5_gray5 (b : Cursor) : ungray5 (gray5 b) = b := by
  revert b
  decide

/-- `gray5` undoes `ungray5`. -/
@[simp] theorem gray5_ungray5 (g : Cursor) : gray5 (ungray5 g) = g := by
  revert g
  decide

/-- Comparing codes is comparing cursors (rule R122). -/
theorem gray5_inj (a b : Cursor) : gray5 a = gray5 b ↔ a = b :=
  ⟨fun h => by rw [← ungray5_gray5 a, h, ungray5_gray5], fun h => by rw [h]⟩

/-- A cursor is below 32. -/
theorem cursor_lt (a : Cursor) : a.toNat < 32 := a.isLt

/-- A counter is below 2^32. -/
theorem count_lt (c : Count) : c.toNat < 4294967296 := c.isLt

/-- `dist` as arithmetic. -/
theorem dist_eq (a b : Cursor) : dist a b = (b.toNat + 32 - a.toNat) % 32 := by
  have := cursor_lt a
  have := cursor_lt b
  simp only [dist, BitVec.toNat_sub, Config.curBits]
  omega

/-- A distance is below 32. -/
theorem dist_lt (a b : Cursor) : dist a b < 32 := (b - a).isLt

/-- The advance as arithmetic. -/
theorem inc5_toNat (b : Cursor) : (inc5 b).toNat = (b.toNat + 1) % 32 := by
  simp [inc5]

/-- A cursor `i` places on, as arithmetic. -/
theorem add_ofNat_toNat (a : Cursor) (i : Nat) : (a + BitVec.ofNat 5 i).toNat = (a.toNat + i) % 32 := by
  simp

end Sys2Proof.Machine
end

