-- ==== Sys2Proof/Laws/State.lean ====
section
/-! SUPPORT. What each named update of State leaves in each field: one lemma per field per update, all true by rfl, and
the normal form of a list of device writes. -/

namespace Sys2Proof.Machine

/-! ## `bramWrite` changes the memory and the record of requests -/

@[simp] theorem bramWrite_cfg (d : Domain) (l : Loc) (v : Word) (s : State) : (bramWrite d l v s).cfg = s.cfg := rfl
@[simp] theorem bramWrite_wrBin (d : Domain) (l : Loc) (v : Word) (s : State) : (bramWrite d l v s).wrBin = s.wrBin := rfl
@[simp] theorem bramWrite_wrGray (d : Domain) (l : Loc) (v : Word) (s : State) : (bramWrite d l v s).wrGray = s.wrGray := rfl
@[simp] theorem bramWrite_rdGrayP (d : Domain) (l : Loc) (v : Word) (s : State) : (bramWrite d l v s).rdGrayP = s.rdGrayP := rfl
@[simp] theorem bramWrite_pStage (d : Domain) (l : Loc) (v : Word) (s : State) : (bramWrite d l v s).pStage = s.pStage := rfl
@[simp] theorem bramWrite_prevId (d : Domain) (l : Loc) (v : Word) (s : State) : (bramWrite d l v s).prevId = s.prevId := rfl
@[simp] theorem bramWrite_readsInfo (d : Domain) (l : Loc) (v : Word) (s : State) : (bramWrite d l v s).readsInfo = s.readsInfo := rfl
@[simp] theorem bramWrite_ack (d : Domain) (l : Loc) (v : Word) (s : State) : (bramWrite d l v s).ack = s.ack := rfl
@[simp] theorem bramWrite_ackOut (d : Domain) (l : Loc) (v : Word) (s : State) : (bramWrite d l v s).ackOut = s.ackOut := rfl
@[simp] theorem bramWrite_pOk (d : Domain) (l : Loc) (v : Word) (s : State) : (bramWrite d l v s).pOk = s.pOk := rfl
@[simp] theorem bramWrite_slots (d : Domain) (l : Loc) (v : Word) (s : State) : (bramWrite d l v s).slots = s.slots := rfl
@[simp] theorem bramWrite_rdBin (d : Domain) (l : Loc) (v : Word) (s : State) : (bramWrite d l v s).rdBin = s.rdBin := rfl
@[simp] theorem bramWrite_rdGray (d : Domain) (l : Loc) (v : Word) (s : State) : (bramWrite d l v s).rdGray = s.rdGray := rfl
@[simp] theorem bramWrite_wrGrayQ (d : Domain) (l : Loc) (v : Word) (s : State) : (bramWrite d l v s).wrGrayQ = s.wrGrayQ := rfl
@[simp] theorem bramWrite_qStage (d : Domain) (l : Loc) (v : Word) (s : State) : (bramWrite d l v s).qStage = s.qStage := rfl
@[simp] theorem bramWrite_qBusy (d : Domain) (l : Loc) (v : Word) (s : State) : (bramWrite d l v s).qBusy = s.qBusy := rfl
@[simp] theorem bramWrite_qEntry (d : Domain) (l : Loc) (v : Word) (s : State) : (bramWrite d l v s).qEntry = s.qEntry := rfl
@[simp] theorem bramWrite_modCycle (d : Domain) (l : Loc) (v : Word) (s : State) : (bramWrite d l v s).modCycle = s.modCycle := rfl
@[simp] theorem bramWrite_stmCycle (d : Domain) (l : Loc) (v : Word) (s : State) : (bramWrite d l v s).stmCycle = s.stmCycle := rfl
@[simp] theorem bramWrite_gainMode (d : Domain) (l : Loc) (v : Word) (s : State) : (bramWrite d l v s).gainMode = s.gainMode := rfl
@[simp] theorem bramWrite_wDone (d : Domain) (l : Loc) (v : Word) (s : State) : (bramWrite d l v s).wDone = s.wDone := rfl
@[simp] theorem bramWrite_cycleTab (d : Domain) (l : Loc) (v : Word) (s : State) : (bramWrite d l v s).cycleTab = s.cycleTab := rfl
@[simp] theorem bramWrite_mem (d : Domain) (l : Loc) (v : Word) (s : State) : (bramWrite d l v s).mem = s.mem.writeWord (s.byteAddr l) v := rfl
@[simp] theorem bramWrite_bus (d : Domain) (l : Loc) (v : Word) (s : State) : (bramWrite d l v s).bus = .write d l v :: s.bus := rfl
@[simp] theorem bramWrite_pTodo (d : Domain) (l : Loc) (v : Word) (s : State) : (bramWrite d l v s).pTodo = s.pTodo := rfl
@[simp] theorem bramWrite_pPending (d : Domain) (l : Loc) (v : Word) (s : State) : (bramWrite d l v s).pPending = s.pPending := rfl
@[simp] theorem bramWrite_pReply (d : Domain) (l : Loc) (v : Word) (s : State) : (bramWrite d l v s).pReply = s.pReply := rfl
@[simp] theorem bramWrite_pTries (d : Domain) (l : Loc) (v : Word) (s : State) : (bramWrite d l v s).pTries = s.pTries := rfl
@[simp] theorem bramWrite_qTodo (d : Domain) (l : Loc) (v : Word) (s : State) : (bramWrite d l v s).qTodo = s.qTodo := rfl
@[simp] theorem bramWrite_qPending (d : Domain) (l : Loc) (v : Word) (s : State) : (bramWrite d l v s).qPending = s.qPending := rfl
@[simp] theorem bramWrite_gainCount (d : Domain) (l : Loc) (v : Word) (s : State) : (bramWrite d l v s).gainCount = s.gainCount := rfl
@[simp] theorem bramWrite_gainPasses (d : Domain) (l : Loc) (v : Word) (s : State) : (bramWrite d l v s).gainPasses = s.gainPasses := rfl
@[simp] theorem bramWrite_tabOld (d : Domain) (l : Loc) (v : Word) (s : State) : (bramWrite d l v s).tabOld = s.tabOld := rfl
@[simp] theorem bramWrite_emitDue (d : Domain) (l : Loc) (v : Word) (s : State) : (bramWrite d l v s).emitDue = s.emitDue := rfl
@[simp] theorem bramWrite_draws (d : Domain) (l : Loc) (v : Word) (s : State) : (bramWrite d l v s).draws = s.draws := rfl
@[simp] theorem bramWrite_sched (d : Domain) (l : Loc) (v : Word) (s : State) : (bramWrite d l v s).sched = s.sched := rfl
@[simp] theorem bramWrite_pIn (d : Domain) (l : Loc) (v : Word) (s : State) : (bramWrite d l v s).pIn = s.pIn := rfl
@[simp] theorem bramWrite_qIn (d : Domain) (l : Loc) (v : Word) (s : State) : (bramWrite d l v s).qIn = s.qIn := rfl
@[simp] theorem bramWrite_answers (d : Domain) (l : Loc) (v : Word) (s : State) : (bramWrite d l v s).answers = s.answers := rfl

/-! ## `bramRead` consumes an answer -/

@[simp] theorem bramRead_cfg (d : Domain) (l : Loc) (s : State) : (bramRead d l s).cfg = s.cfg := rfl
@[simp] theorem bramRead_wrBin (d : Domain) (l : Loc) (s : State) : (bramRead d l s).wrBin = s.wrBin := rfl
@[simp] theorem bramRead_wrGray (d : Domain) (l : Loc) (s : State) : (bramRead d l s).wrGray = s.wrGray := rfl
@[simp] theorem bramRead_rdGrayP (d : Domain) (l : Loc) (s : State) : (bramRead d l s).rdGrayP = s.rdGrayP := rfl
@[simp] theorem bramRead_pStage (d : Domain) (l : Loc) (s : State) : (bramRead d l s).pStage = s.pStage := rfl
@[simp] theorem bramRead_prevId (d : Domain) (l : Loc) (s : State) : (bramRead d l s).prevId = s.prevId := rfl
@[simp] theorem bramRead_readsInfo (d : Domain) (l : Loc) (s : State) : (bramRead d l s).readsInfo = s.readsInfo := rfl
@[simp] theorem bramRead_ack (d : Domain) (l : Loc) (s : State) : (bramRead d l s).ack = s.ack := rfl
@[simp] theorem bramRead_ackOut (d : Domain) (l : Loc) (s : State) : (bramRead d l s).ackOut = s.ackOut := rfl
@[simp] theorem bramRead_pOk (d : Domain) (l : Loc) (s : State) : (bramRead d l s).pOk = s.pOk := rfl
@[simp] theorem bramRead_slots (d : Domain) (l : Loc) (s : State) : (bramRead d l s).slots = s.slots := rfl
@[simp] theorem bramRead_rdBin (d : Domain) (l : Loc) (s : State) : (bramRead d l s).rdBin = s.rdBin := rfl
@[simp] theorem bramRead_rdGray (d : Domain) (l : Loc) (s : State) : (bramRead d l s).rdGray = s.rdGray := rfl
@[simp] theorem bramRead_wrGrayQ (d : Domain) (l : Loc) (s : State) : (bramRead d l s).wrGrayQ = s.wrGrayQ := rfl
@[simp] theorem bramRead_qStage (d : Domain) (l : Loc) (s : State) : (bramRead d l s).qStage = s.qStage := rfl
@[simp] theorem bramRead_qBusy (d : Domain) (l : Loc) (s : State) : (bramRead d l s).qBusy = s.qBusy := rfl
@[simp] theorem bramRead_qEntry (d : Domain) (l : Loc) (s : State) : (bramRead d l s).qEntry = s.qEntry := rfl
@[simp] theorem bramRead_modCycle (d : Domain) (l : Loc) (s : State) : (bramRead d l s).modCycle = s.modCycle := rfl
@[simp] theorem bramRead_stmCycle (d : Domain) (l : Loc) (s : State) : (bramRead d l s).stmCycle = s.stmCycle := rfl
@[simp] theorem bramRead_gainMode (d : Domain) (l : Loc) (s : State) : (bramRead d l s).gainMode = s.gainMode := rfl
@[simp] theorem bramRead_wDone (d : Domain) (l : Loc) (s : State) : (bramRead d l s).wDone = s.wDone := rfl
@[simp] theorem bramRead_cycleTab (d : Domain) (l : Loc) (s : State) : (bramRead d l s).cycleTab = s.cycleTab := rfl
@[simp] theorem bramRead_mem (d : Domain) (l : Loc) (s : State) : (bramRead d l s).mem = s.mem := rfl
@[simp] theorem bramRead_bus (d : Domain) (l : Loc) (s : State) : (bramRead d l s).bus = .read d l (nextAnswer s) :: s.bus := rfl
@[simp] theorem bramRead_pTodo (d : Domain) (l : Loc) (s : State) : (bramRead d l s).pTodo = s.pTodo := rfl
@[simp] theorem bramRead_pPending (d : Domain) (l : Loc) (s : State) : (bramRead d l s).pPending = s.pPending := rfl
@[simp] theorem bramRead_pReply (d : Domain) (l : Loc) (s : State) : (bramRead d l s).pReply = s.pReply := rfl
@[simp] theorem bramRead_pTries (d : Domain) (l : Loc) (s : State) : (bramRead d l s).pTries = s.pTries := rfl
@[simp] theorem bramRead_qTodo (d : Domain) (l : Loc) (s : State) : (bramRead d l s).qTodo = s.qTodo := rfl
@[simp] theorem bramRead_qPending (d : Domain) (l : Loc) (s : State) : (bramRead d l s).qPending = s.qPending := rfl
@[simp] theorem bramRead_gainCount (d : Domain) (l : Loc) (s : State) : (bramRead d l s).gainCount = s.gainCount := rfl
@[simp] theorem bramRead_gainPasses (d : Domain) (l : Loc) (s : State) : (bramRead d l s).gainPasses = s.gainPasses := rfl
@[simp] theorem bramRead_tabOld (d : Domain) (l : Loc) (s : State) : (bramRead d l s).tabOld = s.tabOld := rfl
@[simp] theorem bramRead_emitDue (d : Domain) (l : Loc) (s : State) : (bramRead d l s).emitDue = s.emitDue := rfl
@[simp] theorem bramRead_draws (d : Domain) (l : Loc) (s : State) : (bramRead d l s).draws = s.draws + 1 := rfl
@[simp] theorem bramRead_sched (d : Domain) (l : Loc) (s : State) : (bramRead d l s).sched = s.sched := rfl
@[simp] theorem bramRead_pIn (d : Domain) (l : Loc) (s : State) : (bramRead d l s).pIn = s.pIn := rfl
@[simp] theorem bramRead_qIn (d : Domain) (l : Loc) (s : State) : (bramRead d l s).qIn = s.qIn := rfl
@[simp] theorem bramRead_answers (d : Domain) (l : Loc) (s : State) : (bramRead d l s).answers = s.answers.tail := rfl

/-! ## `writerDone` answers on `w_done` -/

@[simp] theorem writerDone_cfg  (s : State) : (writerDone s).cfg = s.cfg := rfl
@[simp] theorem writerDone_wrBin  (s : State) : (writerDone s).wrBin = s.wrBin := rfl
@[simp] theorem writerDone_wrGray  (s : State) : (writerDone s).wrGray = s.wrGray := rfl
@[simp] theorem writerDone_rdGrayP  (s : State) : (writerDone s).rdGrayP = s.rdGrayP := rfl
@[simp] theorem writerDone_pStage  (s : State) : (writerDone s).pStage = s.pStage := rfl
@[simp] theorem writerDone_prevId  (s : State) : (writerDone s).prevId = s.prevId := rfl
@[simp] theorem writerDone_readsInfo  (s : State) : (writerDone s).readsInfo = s.readsInfo := rfl
@[simp] theorem writerDone_ack  (s : State) : (writerDone s).ack = s.ack := rfl
@[simp] theorem writerDone_ackOut  (s : State) : (writerDone s).ackOut = s.ackOut := rfl
@[simp] theorem writerDone_pOk  (s : State) : (writerDone s).pOk = s.pOk := rfl
@[simp] theorem writerDone_slots  (s : State) : (writerDone s).slots = s.slots := rfl
@[simp] theorem writerDone_rdBin  (s : State) : (writerDone s).rdBin = s.rdBin := rfl
@[simp] theorem writerDone_rdGray  (s : State) : (writerDone s).rdGray = s.rdGray := rfl
@[simp] theorem writerDone_wrGrayQ  (s : State) : (writerDone s).wrGrayQ = s.wrGrayQ := rfl
@[simp] theorem writerDone_qStage  (s : State) : (writerDone s).qStage = s.qStage := rfl
@[simp] theorem writerDone_qBusy  (s : State) : (writerDone s).qBusy = s.qBusy := rfl
@[simp] theorem writerDone_qEntry  (s : State) : (writerDone s).qEntry = s.qEntry := rfl
@[simp] theorem writerDone_modCycle  (s : State) : (writerDone s).modCycle = s.modCycle := rfl
@[simp] theorem writerDone_stmCycle  (s : State) : (writerDone s).stmCycle = s.stmCycle := rfl
@[simp] theorem writerDone_gainMode  (s : State) : (writerDone s).gainMode = s.gainMode := rfl
@[simp] theorem writerDone_wDone  (s : State) : (writerDone s).wDone = true := rfl
@[simp] theorem writerDone_cycleTab  (s : State) : (writerDone s).cycleTab = s.cycleTab := rfl
@[simp] theorem writerDone_mem  (s : State) : (writerDone s).mem = s.mem := rfl
@[simp] theorem writerDone_bus  (s : State) : (writerDone s).bus = s.bus := rfl
@[simp] theorem writerDone_pTodo  (s : State) : (writerDone s).pTodo = s.pTodo := rfl
@[simp] theorem writerDone_pPending  (s : State) : (writerDone s).pPending = s.pPending := rfl
@[simp] theorem writerDone_pReply  (s : State) : (writerDone s).pReply = s.pReply := rfl
@[simp] theorem writerDone_pTries  (s : State) : (writerDone s).pTries = s.pTries := rfl
@[simp] theorem writerDone_qTodo  (s : State) : (writerDone s).qTodo = s.qTodo := rfl
@[simp] theorem writerDone_qPending  (s : State) : (writerDone s).qPending = s.qPending := rfl
@[simp] theorem writerDone_gainCount  (s : State) : (writerDone s).gainCount = s.gainCount := rfl
@[simp] theorem writerDone_gainPasses  (s : State) : (writerDone s).gainPasses = s.gainPasses := rfl
@[simp] theorem writerDone_tabOld  (s : State) : (writerDone s).tabOld = s.tabOld := rfl
@[simp] theorem writerDone_emitDue  (s : State) : (writerDone s).emitDue = s.emitDue := rfl
@[simp] theorem writerDone_draws  (s : State) : (writerDone s).draws = s.draws := rfl
@[simp] theorem writerDone_sched  (s : State) : (writerDone s).sched = s.sched := rfl
@[simp] theorem writerDone_pIn  (s : State) : (writerDone s).pIn = s.pIn := rfl
@[simp] theorem writerDone_qIn  (s : State) : (writerDone s).qIn = s.qIn := rfl
@[simp] theorem writerDone_answers  (s : State) : (writerDone s).answers = s.answers := rfl

/-! ## `holdP` puts an operation back -/

@[simp] theorem holdP_cfg (i : Instr) (s : State) : (holdP i s).cfg = s.cfg := rfl
@[simp] theorem holdP_wrBin (i : Instr) (s : State) : (holdP i s).wrBin = s.wrBin := rfl
@[simp] theorem holdP_wrGray (i : Instr) (s : State) : (holdP i s).wrGray = s.wrGray := rfl
@[simp] theorem holdP_rdGrayP (i : Instr) (s : State) : (holdP i s).rdGrayP = s.rdGrayP := rfl
@[simp] theorem holdP_pStage (i : Instr) (s : State) : (holdP i s).pStage = s.pStage := rfl
@[simp] theorem holdP_prevId (i : Instr) (s : State) : (holdP i s).prevId = s.prevId := rfl
@[simp] theorem holdP_readsInfo (i : Instr) (s : State) : (holdP i s).readsInfo = s.readsInfo := rfl
@[simp] theorem holdP_ack (i : Instr) (s : State) : (holdP i s).ack = s.ack := rfl
@[simp] theorem holdP_ackOut (i : Instr) (s : State) : (holdP i s).ackOut = s.ackOut := rfl
@[simp] theorem holdP_pOk (i : Instr) (s : State) : (holdP i s).pOk = s.pOk := rfl
@[simp] theorem holdP_slots (i : Instr) (s : State) : (holdP i s).slots = s.slots := rfl
@[simp] theorem holdP_rdBin (i : Instr) (s : State) : (holdP i s).rdBin = s.rdBin := rfl
@[simp] theorem holdP_rdGray (i : Instr) (s : State) : (holdP i s).rdGray = s.rdGray := rfl
@[simp] theorem holdP_wrGrayQ (i : Instr) (s : State) : (holdP i s).wrGrayQ = s.wrGrayQ := rfl
@[simp] theorem holdP_qStage (i : Instr) (s : State) : (holdP i s).qStage = s.qStage := rfl
@[simp] theorem holdP_qBusy (i : Instr) (s : State) : (holdP i s).qBusy = s.qBusy := rfl
@[simp] theorem holdP_qEntry (i : Instr) (s : State) : (holdP i s).qEntry = s.qEntry := rfl
@[simp] theorem holdP_modCycle (i : Instr) (s : State) : (holdP i s).modCycle = s.modCycle := rfl
@[simp] theorem holdP_stmCycle (i : Instr) (s : State) : (holdP i s).stmCycle = s.stmCycle := rfl
@[simp] theorem holdP_gainMode (i : Instr) (s : State) : (holdP i s).gainMode = s.gainMode := rfl
@[simp] theorem holdP_wDone (i : Instr) (s : State) : (holdP i s).wDone = s.wDone := rfl
@[simp] theorem holdP_cycleTab (i : Instr) (s : State) : (holdP i s).cycleTab = s.cycleTab := rfl
@[simp] theorem holdP_mem (i : Instr) (s : State) : (holdP i s).mem = s.mem := rfl
@[simp] theorem holdP_bus (i : Instr) (s : State) : (holdP i s).bus = s.bus := rfl
@[simp] theorem holdP_pTodo (i : Instr) (s : State) : (holdP i s).pTodo = i :: s.pTodo := rfl
@[simp] theorem holdP_pPending (i : Instr) (s : State) : (holdP i s).pPending = s.pPending := rfl
@[simp] theorem holdP_pReply (i : Instr) (s : State) : (holdP i s).pReply = s.pReply := rfl
@[simp] theorem holdP_pTries (i : Instr) (s : State) : (holdP i s).pTries = s.pTries := rfl
@[simp] theorem holdP_qTodo (i : Instr) (s : State) : (holdP i s).qTodo = s.qTodo := rfl
@[simp] theorem holdP_qPending (i : Instr) (s : State) : (holdP i s).qPending = s.qPending := rfl
@[simp] theorem holdP_gainCount (i : Instr) (s : State) : (holdP i s).gainCount = s.gainCount := rfl
@[simp] theorem holdP_gainPasses (i : Instr) (s : State) : (holdP i s).gainPasses = s.gainPasses := rfl
@[simp] theorem holdP_tabOld (i : Instr) (s : State) : (holdP i s).tabOld = s.tabOld := rfl
@[simp] theorem holdP_emitDue (i : Instr) (s : State) : (holdP i s).emitDue = s.emitDue := rfl
@[simp] theorem holdP_draws (i : Instr) (s : State) : (holdP i s).draws = s.draws := rfl
@[simp] theorem holdP_sched (i : Instr) (s : State) : (holdP i s).sched = s.sched := rfl
@[simp] theorem holdP_pIn (i : Instr) (s : State) : (holdP i s).pIn = s.pIn := rfl
@[simp] theorem holdP_qIn (i : Instr) (s : State) : (holdP i s).qIn = s.qIn := rfl
@[simp] theorem holdP_answers (i : Instr) (s : State) : (holdP i s).answers = s.answers := rfl

/-! ## `setReply` keeps a reply -/

@[simp] theorem setReply_cfg (b : Byte) (s : State) : (setReply b s).cfg = s.cfg := rfl
@[simp] theorem setReply_wrBin (b : Byte) (s : State) : (setReply b s).wrBin = s.wrBin := rfl
@[simp] theorem setReply_wrGray (b : Byte) (s : State) : (setReply b s).wrGray = s.wrGray := rfl
@[simp] theorem setReply_rdGrayP (b : Byte) (s : State) : (setReply b s).rdGrayP = s.rdGrayP := rfl
@[simp] theorem setReply_pStage (b : Byte) (s : State) : (setReply b s).pStage = s.pStage := rfl
@[simp] theorem setReply_prevId (b : Byte) (s : State) : (setReply b s).prevId = s.prevId := rfl
@[simp] theorem setReply_readsInfo (b : Byte) (s : State) : (setReply b s).readsInfo = s.readsInfo := rfl
@[simp] theorem setReply_ack (b : Byte) (s : State) : (setReply b s).ack = s.ack := rfl
@[simp] theorem setReply_ackOut (b : Byte) (s : State) : (setReply b s).ackOut = s.ackOut := rfl
@[simp] theorem setReply_pOk (b : Byte) (s : State) : (setReply b s).pOk = s.pOk := rfl
@[simp] theorem setReply_slots (b : Byte) (s : State) : (setReply b s).slots = s.slots := rfl
@[simp] theorem setReply_rdBin (b : Byte) (s : State) : (setReply b s).rdBin = s.rdBin := rfl
@[simp] theorem setReply_rdGray (b : Byte) (s : State) : (setReply b s).rdGray = s.rdGray := rfl
@[simp] theorem setReply_wrGrayQ (b : Byte) (s : State) : (setReply b s).wrGrayQ = s.wrGrayQ := rfl
@[simp] theorem setReply_qStage (b : Byte) (s : State) : (setReply b s).qStage = s.qStage := rfl
@[simp] theorem setReply_qBusy (b : Byte) (s : State) : (setReply b s).qBusy = s.qBusy := rfl
@[simp] theorem setReply_qEntry (b : Byte) (s : State) : (setReply b s).qEntry = s.qEntry := rfl
@[simp] theorem setReply_modCycle (b : Byte) (s : State) : (setReply b s).modCycle = s.modCycle := rfl
@[simp] theorem setReply_stmCycle (b : Byte) (s : State) : (setReply b s).stmCycle = s.stmCycle := rfl
@[simp] theorem setReply_gainMode (b : Byte) (s : State) : (setReply b s).gainMode = s.gainMode := rfl
@[simp] theorem setReply_wDone (b : Byte) (s : State) : (setReply b s).wDone = s.wDone := rfl
@[simp] theorem setReply_cycleTab (b : Byte) (s : State) : (setReply b s).cycleTab = s.cycleTab := rfl
@[simp] theorem setReply_mem (b : Byte) (s : State) : (setReply b s).mem = s.mem := rfl
@[simp] theorem setReply_bus (b : Byte) (s : State) : (setReply b s).bus = s.bus := rfl
@[simp] theorem setReply_pTodo (b : Byte) (s : State) : (setReply b s).pTodo = s.pTodo := rfl
@[simp] theorem setReply_pPending (b : Byte) (s : State) : (setReply b s).pPending = s.pPending := rfl
@[simp] theorem setReply_pReply (b : Byte) (s : State) : (setReply b s).pReply = some (b.zeroExtend 16) := rfl
@[simp] theorem setReply_pTries (b : Byte) (s : State) : (setReply b s).pTries = s.pTries := rfl
@[simp] theorem setReply_qTodo (b : Byte) (s : State) : (setReply b s).qTodo = s.qTodo := rfl
@[simp] theorem setReply_qPending (b : Byte) (s : State) : (setReply b s).qPending = s.qPending := rfl
@[simp] theorem setReply_gainCount (b : Byte) (s : State) : (setReply b s).gainCount = s.gainCount := rfl
@[simp] theorem setReply_gainPasses (b : Byte) (s : State) : (setReply b s).gainPasses = s.gainPasses := rfl
@[simp] theorem setReply_tabOld (b : Byte) (s : State) : (setReply b s).tabOld = s.tabOld := rfl
@[simp] theorem setReply_emitDue (b : Byte) (s : State) : (setReply b s).emitDue = s.emitDue := rfl
@[simp] theorem setReply_draws (b : Byte) (s : State) : (setReply b s).draws = s.draws := rfl
@[simp] theorem setReply_sched (b : Byte) (s : State) : (setReply b s).sched = s.sched := rfl
@[simp] theorem setReply_pIn (b : Byte) (s : State) : (setReply b s).pIn = s.pIn := rfl
@[simp] theorem setReply_qIn (b : Byte) (s : State) : (setReply b s).qIn = s.qIn := rfl
@[simp] theorem setReply_answers (b : Byte) (s : State) : (setReply b s).answers = s.answers := rfl

/-! ## `setAck` writes the acknowledgment -/

@[simp] theorem setAck_cfg (b : Byte) (s : State) : (setAck b s).cfg = s.cfg := rfl
@[simp] theorem setAck_wrBin (b : Byte) (s : State) : (setAck b s).wrBin = s.wrBin := rfl
@[simp] theorem setAck_wrGray (b : Byte) (s : State) : (setAck b s).wrGray = s.wrGray := rfl
@[simp] theorem setAck_rdGrayP (b : Byte) (s : State) : (setAck b s).rdGrayP = s.rdGrayP := rfl
@[simp] theorem setAck_pStage (b : Byte) (s : State) : (setAck b s).pStage = s.pStage := rfl
@[simp] theorem setAck_prevId (b : Byte) (s : State) : (setAck b s).prevId = s.prevId := rfl
@[simp] theorem setAck_readsInfo (b : Byte) (s : State) : (setAck b s).readsInfo = s.readsInfo := rfl
@[simp] theorem setAck_ack (b : Byte) (s : State) : (setAck b s).ack = wordOf b s.prevId := rfl
@[simp] theorem setAck_ackOut (b : Byte) (s : State) : (setAck b s).ackOut = wordOf b s.prevId := rfl
@[simp] theorem setAck_pOk (b : Byte) (s : State) : (setAck b s).pOk = s.pOk := rfl
@[simp] theorem setAck_slots (b : Byte) (s : State) : (setAck b s).slots = s.slots := rfl
@[simp] theorem setAck_rdBin (b : Byte) (s : State) : (setAck b s).rdBin = s.rdBin := rfl
@[simp] theorem setAck_rdGray (b : Byte) (s : State) : (setAck b s).rdGray = s.rdGray := rfl
@[simp] theorem setAck_wrGrayQ (b : Byte) (s : State) : (setAck b s).wrGrayQ = s.wrGrayQ := rfl
@[simp] theorem setAck_qStage (b : Byte) (s : State) : (setAck b s).qStage = s.qStage := rfl
@[simp] theorem setAck_qBusy (b : Byte) (s : State) : (setAck b s).qBusy = s.qBusy := rfl
@[simp] theorem setAck_qEntry (b : Byte) (s : State) : (setAck b s).qEntry = s.qEntry := rfl
@[simp] theorem setAck_modCycle (b : Byte) (s : State) : (setAck b s).modCycle = s.modCycle := rfl
@[simp] theorem setAck_stmCycle (b : Byte) (s : State) : (setAck b s).stmCycle = s.stmCycle := rfl
@[simp] theorem setAck_gainMode (b : Byte) (s : State) : (setAck b s).gainMode = s.gainMode := rfl
@[simp] theorem setAck_wDone (b : Byte) (s : State) : (setAck b s).wDone = s.wDone := rfl
@[simp] theorem setAck_cycleTab (b : Byte) (s : State) : (setAck b s).cycleTab = s.cycleTab := rfl
@[simp] theorem setAck_mem (b : Byte) (s : State) : (setAck b s).mem = s.mem := rfl
@[simp] theorem setAck_bus (b : Byte) (s : State) : (setAck b s).bus = s.bus := rfl
@[simp] theorem setAck_pTodo (b : Byte) (s : State) : (setAck b s).pTodo = s.pTodo := rfl
@[simp] theorem setAck_pPending (b : Byte) (s : State) : (setAck b s).pPending = s.pPending := rfl
@[simp] theorem setAck_pReply (b : Byte) (s : State) : (setAck b s).pReply = s.pReply := rfl
@[simp] theorem setAck_pTries (b : Byte) (s : State) : (setAck b s).pTries = s.pTries := rfl
@[simp] theorem setAck_qTodo (b : Byte) (s : State) : (setAck b s).qTodo = s.qTodo := rfl
@[simp] theorem setAck_qPending (b : Byte) (s : State) : (setAck b s).qPending = s.qPending := rfl
@[simp] theorem setAck_gainCount (b : Byte) (s : State) : (setAck b s).gainCount = s.gainCount := rfl
@[simp] theorem setAck_gainPasses (b : Byte) (s : State) : (setAck b s).gainPasses = s.gainPasses := rfl
@[simp] theorem setAck_tabOld (b : Byte) (s : State) : (setAck b s).tabOld = none := rfl
@[simp] theorem setAck_emitDue (b : Byte) (s : State) : (setAck b s).emitDue = s.emitDue := rfl
@[simp] theorem setAck_draws (b : Byte) (s : State) : (setAck b s).draws = s.draws := rfl
@[simp] theorem setAck_sched (b : Byte) (s : State) : (setAck b s).sched = s.sched := rfl
@[simp] theorem setAck_pIn (b : Byte) (s : State) : (setAck b s).pIn = s.pIn := rfl
@[simp] theorem setAck_qIn (b : Byte) (s : State) : (setAck b s).qIn = s.qIn := rfl
@[simp] theorem setAck_answers (b : Byte) (s : State) : (setAck b s).answers = s.answers := rfl

/-! ## `postWrites` leaves the device writes of a command to the turns that follow -/

@[simp] theorem postWrites_p_cfg (s0 : State) (s : State) : (postWrites .p s0 s).cfg = s.cfg := rfl
@[simp] theorem postWrites_p_wrBin (s0 : State) (s : State) : (postWrites .p s0 s).wrBin = s.wrBin := rfl
@[simp] theorem postWrites_p_wrGray (s0 : State) (s : State) : (postWrites .p s0 s).wrGray = s.wrGray := rfl
@[simp] theorem postWrites_p_rdGrayP (s0 : State) (s : State) : (postWrites .p s0 s).rdGrayP = s.rdGrayP := rfl
@[simp] theorem postWrites_p_pStage (s0 : State) (s : State) : (postWrites .p s0 s).pStage = s.pStage := rfl
@[simp] theorem postWrites_p_prevId (s0 : State) (s : State) : (postWrites .p s0 s).prevId = s.prevId := rfl
@[simp] theorem postWrites_p_readsInfo (s0 : State) (s : State) : (postWrites .p s0 s).readsInfo = s.readsInfo := rfl
@[simp] theorem postWrites_p_ack (s0 : State) (s : State) : (postWrites .p s0 s).ack = s.ack := rfl
@[simp] theorem postWrites_p_ackOut (s0 : State) (s : State) : (postWrites .p s0 s).ackOut = s.ackOut := rfl
@[simp] theorem postWrites_p_pOk (s0 : State) (s : State) : (postWrites .p s0 s).pOk = s.pOk := rfl
@[simp] theorem postWrites_p_slots (s0 : State) (s : State) : (postWrites .p s0 s).slots = s.slots := rfl
@[simp] theorem postWrites_p_rdBin (s0 : State) (s : State) : (postWrites .p s0 s).rdBin = s.rdBin := rfl
@[simp] theorem postWrites_p_rdGray (s0 : State) (s : State) : (postWrites .p s0 s).rdGray = s.rdGray := rfl
@[simp] theorem postWrites_p_wrGrayQ (s0 : State) (s : State) : (postWrites .p s0 s).wrGrayQ = s.wrGrayQ := rfl
@[simp] theorem postWrites_p_qStage (s0 : State) (s : State) : (postWrites .p s0 s).qStage = s.qStage := rfl
@[simp] theorem postWrites_p_qBusy (s0 : State) (s : State) : (postWrites .p s0 s).qBusy = s.qBusy := rfl
@[simp] theorem postWrites_p_qEntry (s0 : State) (s : State) : (postWrites .p s0 s).qEntry = s.qEntry := rfl
@[simp] theorem postWrites_p_modCycle (s0 : State) (s : State) : (postWrites .p s0 s).modCycle = s.modCycle := rfl
@[simp] theorem postWrites_p_stmCycle (s0 : State) (s : State) : (postWrites .p s0 s).stmCycle = s.stmCycle := rfl
@[simp] theorem postWrites_p_gainMode (s0 : State) (s : State) : (postWrites .p s0 s).gainMode = s.gainMode := rfl
@[simp] theorem postWrites_p_wDone (s0 : State) (s : State) : (postWrites .p s0 s).wDone = s.wDone := rfl
@[simp] theorem postWrites_p_cycleTab (s0 : State) (s : State) : (postWrites .p s0 s).cycleTab = s.cycleTab := rfl
@[simp] theorem postWrites_p_mem (s0 : State) (s : State) : (postWrites .p s0 s).mem = s0.mem := rfl
@[simp] theorem postWrites_p_bus (s0 : State) (s : State) : (postWrites .p s0 s).bus = s0.bus := rfl
@[simp] theorem postWrites_p_pTodo (s0 : State) (s : State) : (postWrites .p s0 s).pTodo = s.pTodo := rfl
@[simp] theorem postWrites_p_pPending (s0 : State) (s : State) : (postWrites .p s0 s).pPending = newWrites s0 s := rfl
@[simp] theorem postWrites_p_pReply (s0 : State) (s : State) : (postWrites .p s0 s).pReply = s.pReply := rfl
@[simp] theorem postWrites_p_pTries (s0 : State) (s : State) : (postWrites .p s0 s).pTries = s.pTries := rfl
@[simp] theorem postWrites_p_qTodo (s0 : State) (s : State) : (postWrites .p s0 s).qTodo = s.qTodo := rfl
@[simp] theorem postWrites_p_qPending (s0 : State) (s : State) : (postWrites .p s0 s).qPending = s.qPending := rfl
@[simp] theorem postWrites_p_gainCount (s0 : State) (s : State) : (postWrites .p s0 s).gainCount = s.gainCount := rfl
@[simp] theorem postWrites_p_gainPasses (s0 : State) (s : State) : (postWrites .p s0 s).gainPasses = s.gainPasses := rfl
@[simp] theorem postWrites_p_tabOld (s0 : State) (s : State) : (postWrites .p s0 s).tabOld = s.tabOld := rfl
@[simp] theorem postWrites_p_emitDue (s0 : State) (s : State) : (postWrites .p s0 s).emitDue = s.emitDue := rfl
@[simp] theorem postWrites_p_draws (s0 : State) (s : State) : (postWrites .p s0 s).draws = s.draws := rfl
@[simp] theorem postWrites_p_sched (s0 : State) (s : State) : (postWrites .p s0 s).sched = s.sched := rfl
@[simp] theorem postWrites_p_pIn (s0 : State) (s : State) : (postWrites .p s0 s).pIn = s.pIn := rfl
@[simp] theorem postWrites_p_qIn (s0 : State) (s : State) : (postWrites .p s0 s).qIn = s.qIn := rfl
@[simp] theorem postWrites_p_answers (s0 : State) (s : State) : (postWrites .p s0 s).answers = s.answers := rfl

/-! ## The same in domain Q -/

@[simp] theorem postWrites_q_cfg (s0 : State) (s : State) : (postWrites .q s0 s).cfg = s.cfg := rfl
@[simp] theorem postWrites_q_wrBin (s0 : State) (s : State) : (postWrites .q s0 s).wrBin = s.wrBin := rfl
@[simp] theorem postWrites_q_wrGray (s0 : State) (s : State) : (postWrites .q s0 s).wrGray = s.wrGray := rfl
@[simp] theorem postWrites_q_rdGrayP (s0 : State) (s : State) : (postWrites .q s0 s).rdGrayP = s.rdGrayP := rfl
@[simp] theorem postWrites_q_pStage (s0 : State) (s : State) : (postWrites .q s0 s).pStage = s.pStage := rfl
@[simp] theorem postWrites_q_prevId (s0 : State) (s : State) : (postWrites .q s0 s).prevId = s.prevId := rfl
@[simp] theorem postWrites_q_readsInfo (s0 : State) (s : State) : (postWrites .q s0 s).readsInfo = s.readsInfo := rfl
@[simp] theorem postWrites_q_ack (s0 : State) (s : State) : (postWrites .q s0 s).ack = s.ack := rfl
@[simp] theorem postWrites_q_ackOut (s0 : State) (s : State) : (postWrites .q s0 s).ackOut = s.ackOut := rfl
@[simp] theorem postWrites_q_pOk (s0 : State) (s : State) : (postWrites .q s0 s).pOk = s.pOk := rfl
@[simp] theorem postWrites_q_slots (s0 : State) (s : State) : (postWrites .q s0 s).slots = s.slots := rfl
@[simp] theorem postWrites_q_rdBin (s0 : State) (s : State) : (postWrites .q s0 s).rdBin = s.rdBin := rfl
@[simp] theorem postWrites_q_rdGray (s0 : State) (s : State) : (postWrites .q s0 s).rdGray = s.rdGray := rfl
@[simp] theorem postWrites_q_wrGrayQ (s0 : State) (s : State) : (postWrites .q s0 s).wrGrayQ = s.wrGrayQ := rfl
@[simp] theorem postWrites_q_qStage (s0 : State) (s : State) : (postWrites .q s0 s).qStage = s.qStage := rfl
@[simp] theorem postWrites_q_qBusy (s0 : State) (s : State) : (postWrites .q s0 s).qBusy = s.qBusy := rfl
@[simp] theorem postWrites_q_qEntry (s0 : State) (s : State) : (postWrites .q s0 s).qEntry = s.qEntry := rfl
@[simp] theorem postWrites_q_modCycle (s0 : State) (s : State) : (postWrites .q s0 s).modCycle = s.modCycle := rfl
@[simp] theorem postWrites_q_stmCycle (s0 : State) (s : State) : (postWrites .q s0 s).stmCycle = s.stmCycle := rfl
@[simp] theorem postWrites_q_gainMode (s0 : State) (s : State) : (postWrites .q s0 s).gainMode = s.gainMode := rfl
@[simp] theorem postWrites_q_wDone (s0 : State) (s : State) : (postWrites .q s0 s).wDone = s.wDone := rfl
@[simp] theorem postWrites_q_cycleTab (s0 : State) (s : State) : (postWrites .q s0 s).cycleTab = s.cycleTab := rfl
@[simp] theorem postWrites_q_mem (s0 : State) (s : State) : (postWrites .q s0 s).mem = s0.mem := rfl
@[simp] theorem postWrites_q_bus (s0 : State) (s : State) : (postWrites .q s0 s).bus = s0.bus := rfl
@[simp] theorem postWrites_q_pTodo (s0 : State) (s : State) : (postWrites .q s0 s).pTodo = s.pTodo := rfl
@[simp] theorem postWrites_q_pPending (s0 : State) (s : State) : (postWrites .q s0 s).pPending = s.pPending := rfl
@[simp] theorem postWrites_q_pReply (s0 : State) (s : State) : (postWrites .q s0 s).pReply = s.pReply := rfl
@[simp] theorem postWrites_q_pTries (s0 : State) (s : State) : (postWrites .q s0 s).pTries = s.pTries := rfl
@[simp] theorem postWrites_q_qTodo (s0 : State) (s : State) : (postWrites .q s0 s).qTodo = s.qTodo := rfl
@[simp] theorem postWrites_q_qPending (s0 : State) (s : State) : (postWrites .q s0 s).qPending = newWrites s0 s := rfl
@[simp] theorem postWrites_q_gainCount (s0 : State) (s : State) : (postWrites .q s0 s).gainCount = s.gainCount := rfl
@[simp] theorem postWrites_q_gainPasses (s0 : State) (s : State) : (postWrites .q s0 s).gainPasses = s.gainPasses := rfl
@[simp] theorem postWrites_q_tabOld (s0 : State) (s : State) : (postWrites .q s0 s).tabOld = s.tabOld := rfl
@[simp] theorem postWrites_q_emitDue (s0 : State) (s : State) : (postWrites .q s0 s).emitDue = s.emitDue := rfl
@[simp] theorem postWrites_q_draws (s0 : State) (s : State) : (postWrites .q s0 s).draws = s.draws := rfl
@[simp] theorem postWrites_q_sched (s0 : State) (s : State) : (postWrites .q s0 s).sched = s.sched := rfl
@[simp] theorem postWrites_q_pIn (s0 : State) (s : State) : (postWrites .q s0 s).pIn = s.pIn := rfl
@[simp] theorem postWrites_q_qIn (s0 : State) (s : State) : (postWrites .q s0 s).qIn = s.qIn := rfl
@[simp] theorem postWrites_q_answers (s0 : State) (s : State) : (postWrites .q s0 s).answers = s.answers := rfl

/-! ## `endOfTick` writes `q_busy` alone -/

@[simp] theorem endOfTick_cfg (s : State) : (endOfTick s).cfg = s.cfg := by
  unfold endOfTick
  split <;> rfl
@[simp] theorem endOfTick_wrBin (s : State) : (endOfTick s).wrBin = s.wrBin := by
  unfold endOfTick
  split <;> rfl
@[simp] theorem endOfTick_wrGray (s : State) : (endOfTick s).wrGray = s.wrGray := by
  unfold endOfTick
  split <;> rfl
@[simp] theorem endOfTick_rdGrayP (s : State) : (endOfTick s).rdGrayP = s.rdGrayP := by
  unfold endOfTick
  split <;> rfl
@[simp] theorem endOfTick_pStage (s : State) : (endOfTick s).pStage = s.pStage := by
  unfold endOfTick
  split <;> rfl
@[simp] theorem endOfTick_prevId (s : State) : (endOfTick s).prevId = s.prevId := by
  unfold endOfTick
  split <;> rfl
@[simp] theorem endOfTick_readsInfo (s : State) : (endOfTick s).readsInfo = s.readsInfo := by
  unfold endOfTick
  split <;> rfl
@[simp] theorem endOfTick_ack (s : State) : (endOfTick s).ack = s.ack := by
  unfold endOfTick
  split <;> rfl
@[simp] theorem endOfTick_ackOut (s : State) : (endOfTick s).ackOut = s.ackOut := by
  unfold endOfTick
  split <;> rfl
@[simp] theorem endOfTick_pOk (s : State) : (endOfTick s).pOk = s.pOk := by
  unfold endOfTick
  split <;> rfl
@[simp] theorem endOfTick_slots (s : State) : (endOfTick s).slots = s.slots := by
  unfold endOfTick
  split <;> rfl
@[simp] theorem endOfTick_rdBin (s : State) : (endOfTick s).rdBin = s.rdBin := by
  unfold endOfTick
  split <;> rfl
@[simp] theorem endOfTick_rdGray (s : State) : (endOfTick s).rdGray = s.rdGray := by
  unfold endOfTick
  split <;> rfl
@[simp] theorem endOfTick_wrGrayQ (s : State) : (endOfTick s).wrGrayQ = s.wrGrayQ := by
  unfold endOfTick
  split <;> rfl
@[simp] theorem endOfTick_qStage (s : State) : (endOfTick s).qStage = s.qStage := by
  unfold endOfTick
  split <;> rfl
@[simp] theorem endOfTick_qEntry (s : State) : (endOfTick s).qEntry = s.qEntry := by
  unfold endOfTick
  split <;> rfl
@[simp] theorem endOfTick_modCycle (s : State) : (endOfTick s).modCycle = s.modCycle := by
  unfold endOfTick
  split <;> rfl
@[simp] theorem endOfTick_stmCycle (s : State) : (endOfTick s).stmCycle = s.stmCycle := by
  unfold endOfTick
  split <;> rfl
@[simp] theorem endOfTick_gainMode (s : State) : (endOfTick s).gainMode = s.gainMode := by
  unfold endOfTick
  split <;> rfl
@[simp] theorem endOfTick_wDone (s : State) : (endOfTick s).wDone = s.wDone := by
  unfold endOfTick
  split <;> rfl
@[simp] theorem endOfTick_cycleTab (s : State) : (endOfTick s).cycleTab = s.cycleTab := by
  unfold endOfTick
  split <;> rfl
@[simp] theorem endOfTick_mem (s : State) : (endOfTick s).mem = s.mem := by
  unfold endOfTick
  split <;> rfl
@[simp] theorem endOfTick_bus (s : State) : (endOfTick s).bus = s.bus := by
  unfold endOfTick
  split <;> rfl
@[simp] theorem endOfTick_pTodo (s : State) : (endOfTick s).pTodo = s.pTodo := by
  unfold endOfTick
  split <;> rfl
@[simp] theorem endOfTick_pPending (s : State) : (endOfTick s).pPending = s.pPending := by
  unfold endOfTick
  split <;> rfl
@[simp] theorem endOfTick_pReply (s : State) : (endOfTick s).pReply = s.pReply := by
  unfold endOfTick
  split <;> rfl
@[simp] theorem endOfTick_pTries (s : State) : (endOfTick s).pTries = s.pTries := by
  unfold endOfTick
  split <;> rfl
@[simp] theorem endOfTick_qTodo (s : State) : (endOfTick s).qTodo = s.qTodo := by
  unfold endOfTick
  split <;> rfl
@[simp] theorem endOfTick_qPending (s : State) : (endOfTick s).qPending = s.qPending := by
  unfold endOfTick
  split <;> rfl
@[simp] theorem endOfTick_gainCount (s : State) : (endOfTick s).gainCount = s.gainCount := by
  unfold endOfTick
  split <;> rfl
@[simp] theorem endOfTick_gainPasses (s : State) : (endOfTick s).gainPasses = s.gainPasses := by
  unfold endOfTick
  split <;> rfl
@[simp] theorem endOfTick_tabOld (s : State) : (endOfTick s).tabOld = s.tabOld := by
  unfold endOfTick
  split <;> rfl
@[simp] theorem endOfTick_emitDue (s : State) : (endOfTick s).emitDue = s.emitDue := by
  unfold endOfTick
  split <;> rfl
@[simp] theorem endOfTick_draws (s : State) : (endOfTick s).draws = s.draws := by
  unfold endOfTick
  split <;> rfl
@[simp] theorem endOfTick_sched (s : State) : (endOfTick s).sched = s.sched := by
  unfold endOfTick
  split <;> rfl
@[simp] theorem endOfTick_pIn (s : State) : (endOfTick s).pIn = s.pIn := by
  unfold endOfTick
  split <;> rfl
@[simp] theorem endOfTick_qIn (s : State) : (endOfTick s).qIn = s.qIn := by
  unfold endOfTick
  split <;> rfl
@[simp] theorem endOfTick_answers (s : State) : (endOfTick s).answers = s.answers := by
  unfold endOfTick
  split <;> rfl

/-! ## `Channel.setCycle` writes one counter -/

@[simp] theorem setCycle_cfg (ch : Channel) (c : Count) (s : State) : (ch.setCycle c s).cfg = s.cfg := by
  cases ch <;> rfl
@[simp] theorem setCycle_wrBin (ch : Channel) (c : Count) (s : State) : (ch.setCycle c s).wrBin = s.wrBin := by
  cases ch <;> rfl
@[simp] theorem setCycle_wrGray (ch : Channel) (c : Count) (s : State) : (ch.setCycle c s).wrGray = s.wrGray := by
  cases ch <;> rfl
@[simp] theorem setCycle_rdGrayP (ch : Channel) (c : Count) (s : State) : (ch.setCycle c s).rdGrayP = s.rdGrayP := by
  cases ch <;> rfl
@[simp] theorem setCycle_pStage (ch : Channel) (c : Count) (s : State) : (ch.setCycle c s).pStage = s.pStage := by
  cases ch <;> rfl
@[simp] theorem setCycle_prevId (ch : Channel) (c : Count) (s : State) : (ch.setCycle c s).prevId = s.prevId := by
  cases ch <;> rfl
@[simp] theorem setCycle_readsInfo (ch : Channel) (c : Count) (s : State) : (ch.setCycle c s).readsInfo = s.readsInfo := by
  cases ch <;> rfl
@[simp] theorem setCycle_ack (ch : Channel) (c : Count) (s : State) : (ch.setCycle c s).ack = s.ack := by
  cases ch <;> rfl
@[simp] theorem setCycle_ackOut (ch : Channel) (c : Count) (s : State) : (ch.setCycle c s).ackOut = s.ackOut := by
  cases ch <;> rfl
@[simp] theorem setCycle_pOk (ch : Channel) (c : Count) (s : State) : (ch.setCycle c s).pOk = s.pOk := by
  cases ch <;> rfl
@[simp] theorem setCycle_slots (ch : Channel) (c : Count) (s : State) : (ch.setCycle c s).slots = s.slots := by
  cases ch <;> rfl
@[simp] theorem setCycle_rdBin (ch : Channel) (c : Count) (s : State) : (ch.setCycle c s).rdBin = s.rdBin := by
  cases ch <;> rfl
@[simp] theorem setCycle_rdGray (ch : Channel) (c : Count) (s : State) : (ch.setCycle c s).rdGray = s.rdGray := by
  cases ch <;> rfl
@[simp] theorem setCycle_wrGrayQ (ch : Channel) (c : Count) (s : State) : (ch.setCycle c s).wrGrayQ = s.wrGrayQ := by
  cases ch <;> rfl
@[simp] theorem setCycle_qStage (ch : Channel) (c : Count) (s : State) : (ch.setCycle c s).qStage = s.qStage := by
  cases ch <;> rfl
@[simp] theorem setCycle_qBusy (ch : Channel) (c : Count) (s : State) : (ch.setCycle c s).qBusy = s.qBusy := by
  cases ch <;> rfl
@[simp] theorem setCycle_qEntry (ch : Channel) (c : Count) (s : State) : (ch.setCycle c s).qEntry = s.qEntry := by
  cases ch <;> rfl
@[simp] theorem setCycle_gainMode (ch : Channel) (c : Count) (s : State) : (ch.setCycle c s).gainMode = s.gainMode := by
  cases ch <;> rfl
@[simp] theorem setCycle_wDone (ch : Channel) (c : Count) (s : State) : (ch.setCycle c s).wDone = s.wDone := by
  cases ch <;> rfl
@[simp] theorem setCycle_cycleTab (ch : Channel) (c : Count) (s : State) : (ch.setCycle c s).cycleTab = s.cycleTab := by
  cases ch <;> rfl
@[simp] theorem setCycle_mem (ch : Channel) (c : Count) (s : State) : (ch.setCycle c s).mem = s.mem := by
  cases ch <;> rfl
@[simp] theorem setCycle_bus (ch : Channel) (c : Count) (s : State) : (ch.setCycle c s).bus = s.bus := by
  cases ch <;> rfl
@[simp] theorem setCycle_pTodo (ch : Channel) (c : Count) (s : State) : (ch.setCycle c s).pTodo = s.pTodo := by
  cases ch <;> rfl
@[simp] theorem setCycle_pPending (ch : Channel) (c : Count) (s : State) : (ch.setCycle c s).pPending = s.pPending := by
  cases ch <;> rfl
@[simp] theorem setCycle_pReply (ch : Channel) (c : Count) (s : State) : (ch.setCycle c s).pReply = s.pReply := by
  cases ch <;> rfl
@[simp] theorem setCycle_pTries (ch : Channel) (c : Count) (s : State) : (ch.setCycle c s).pTries = s.pTries := by
  cases ch <;> rfl
@[simp] theorem setCycle_qTodo (ch : Channel) (c : Count) (s : State) : (ch.setCycle c s).qTodo = s.qTodo := by
  cases ch <;> rfl
@[simp] theorem setCycle_qPending (ch : Channel) (c : Count) (s : State) : (ch.setCycle c s).qPending = s.qPending := by
  cases ch <;> rfl
@[simp] theorem setCycle_gainCount (ch : Channel) (c : Count) (s : State) : (ch.setCycle c s).gainCount = s.gainCount := by
  cases ch <;> rfl
@[simp] theorem setCycle_gainPasses (ch : Channel) (c : Count) (s : State) : (ch.setCycle c s).gainPasses = s.gainPasses := by
  cases ch <;> rfl
@[simp] theorem setCycle_tabOld (ch : Channel) (c : Count) (s : State) : (ch.setCycle c s).tabOld = s.tabOld := by
  cases ch <;> rfl
@[simp] theorem setCycle_emitDue (ch : Channel) (c : Count) (s : State) : (ch.setCycle c s).emitDue = s.emitDue := by
  cases ch <;> rfl
@[simp] theorem setCycle_draws (ch : Channel) (c : Count) (s : State) : (ch.setCycle c s).draws = s.draws := by
  cases ch <;> rfl
@[simp] theorem setCycle_sched (ch : Channel) (c : Count) (s : State) : (ch.setCycle c s).sched = s.sched := by
  cases ch <;> rfl
@[simp] theorem setCycle_pIn (ch : Channel) (c : Count) (s : State) : (ch.setCycle c s).pIn = s.pIn := by
  cases ch <;> rfl
@[simp] theorem setCycle_qIn (ch : Channel) (c : Count) (s : State) : (ch.setCycle c s).qIn = s.qIn := by
  cases ch <;> rfl
@[simp] theorem setCycle_answers (ch : Channel) (c : Count) (s : State) : (ch.setCycle c s).answers = s.answers := by
  cases ch <;> rfl

@[simp] theorem cycle_setCycle (ch : Channel) (c : Count) (s : State) : ch.cycle (ch.setCycle c s) = c := by
  cases ch <;> rfl

@[simp] theorem cycle_bramWrite (ch : Channel) (d : Domain) (l : Loc) (v : Word) (s : State) :
    ch.cycle (bramWrite d l v s) = ch.cycle s := by
  cases ch <;> rfl

/-! ## `bramWrites` changes the memory and the record of requests, whatever the list -/

/-- A list of writes is the state with another memory and another record. -/
theorem bramWrites_eq (d : Domain) (ws : List (Loc × Word)) (s : State) :
    bramWrites d ws s = { s with mem := (bramWrites d ws s).mem, bus := (bramWrites d ws s).bus } := by
  induction ws generalizing s with
  | nil => rfl
  | cons w ws ih =>
    obtain ⟨l, v⟩ := w
    rw [bramWrites, ih]
    rfl

@[simp] theorem bramWrites_cfg (d : Domain) (ws : List (Loc × Word)) (s : State) :
    (bramWrites d ws s).cfg = s.cfg := by
  rw [bramWrites_eq]
@[simp] theorem bramWrites_wrBin (d : Domain) (ws : List (Loc × Word)) (s : State) :
    (bramWrites d ws s).wrBin = s.wrBin := by
  rw [bramWrites_eq]
@[simp] theorem bramWrites_wrGray (d : Domain) (ws : List (Loc × Word)) (s : State) :
    (bramWrites d ws s).wrGray = s.wrGray := by
  rw [bramWrites_eq]
@[simp] theorem bramWrites_rdGrayP (d : Domain) (ws : List (Loc × Word)) (s : State) :
    (bramWrites d ws s).rdGrayP = s.rdGrayP := by
  rw [bramWrites_eq]
@[simp] theorem bramWrites_pStage (d : Domain) (ws : List (Loc × Word)) (s : State) :
    (bramWrites d ws s).pStage = s.pStage := by
  rw [bramWrites_eq]
@[simp] theorem bramWrites_prevId (d : Domain) (ws : List (Loc × Word)) (s : State) :
    (bramWrites d ws s).prevId = s.prevId := by
  rw [bramWrites_eq]
@[simp] theorem bramWrites_readsInfo (d : Domain) (ws : List (Loc × Word)) (s : State) :
    (bramWrites d ws s).readsInfo = s.readsInfo := by
  rw [bramWrites_eq]
@[simp] theorem bramWrites_ack (d : Domain) (ws : List (Loc × Word)) (s : State) :
    (bramWrites d ws s).ack = s.ack := by
  rw [bramWrites_eq]
@[simp] theorem bramWrites_ackOut (d : Domain) (ws : List (Loc × Word)) (s : State) :
    (bramWrites d ws s).ackOut = s.ackOut := by
  rw [bramWrites_eq]
@[simp] theorem bramWrites_pOk (d : Domain) (ws : List (Loc × Word)) (s : State) :
    (bramWrites d ws s).pOk = s.pOk := by
  rw [bramWrites_eq]
@[simp] theorem bramWrites_slots (d : Domain) (ws : List (Loc × Word)) (s : State) :
    (bramWrites d ws s).slots = s.slots := by
  rw [bramWrites_eq]
@[simp] theorem bramWrites_rdBin (d : Domain) (ws : List (Loc × Word)) (s : State) :
    (bramWrites d ws s).rdBin = s.rdBin := by
  rw [bramWrites_eq]
@[simp] theorem bramWrites_rdGray (d : Domain) (ws : List (Loc × Word)) (s : State) :
    (bramWrites d ws s).rdGray = s.rdGray := by
  rw [bramWrites_eq]
@[simp] theorem bramWrites_wrGrayQ (d : Domain) (ws : List (Loc × Word)) (s : State) :
    (bramWrites d ws s).wrGrayQ = s.wrGrayQ := by
  rw [bramWrites_eq]
@[simp] theorem bramWrites_qStage (d : Domain) (ws : List (Loc × Word)) (s : State) :
    (bramWrites d ws s).qStage = s.qStage := by
  rw [bramWrites_eq]
@[simp] theorem bramWrites_qBusy (d : Domain) (ws : List (Loc × Word)) (s : State) :
    (bramWrites d ws s).qBusy = s.qBusy := by
  rw [bramWrites_eq]
@[simp] theorem bramWrites_qEntry (d : Domain) (ws : List (Loc × Word)) (s : State) :
    (bramWrites d ws s).qEntry = s.qEntry := by
  rw [bramWrites_eq]
@[simp] theorem bramWrites_modCycle (d : Domain) (ws : List (Loc × Word)) (s : State) :
    (bramWrites d ws s).modCycle = s.modCycle := by
  rw [bramWrites_eq]
@[simp] theorem bramWrites_stmCycle (d : Domain) (ws : List (Loc × Word)) (s : State) :
    (bramWrites d ws s).stmCycle = s.stmCycle := by
  rw [bramWrites_eq]
@[simp] theorem bramWrites_gainMode (d : Domain) (ws : List (Loc × Word)) (s : State) :
    (bramWrites d ws s).gainMode = s.gainMode := by
  rw [bramWrites_eq]
@[simp] theorem bramWrites_wDone (d : Domain) (ws : List (Loc × Word)) (s : State) :
    (bramWrites d ws s).wDone = s.wDone := by
  rw [bramWrites_eq]
@[simp] theorem bramWrites_cycleTab (d : Domain) (ws : List (Loc × Word)) (s : State) :
    (bramWrites d ws s).cycleTab = s.cycleTab := by
  rw [bramWrites_eq]
@[simp] theorem bramWrites_pTodo (d : Domain) (ws : List (Loc × Word)) (s : State) :
    (bramWrites d ws s).pTodo = s.pTodo := by
  rw [bramWrites_eq]
@[simp] theorem bramWrites_pPending (d : Domain) (ws : List (Loc × Word)) (s : State) :
    (bramWrites d ws s).pPending = s.pPending := by
  rw [bramWrites_eq]
@[simp] theorem bramWrites_pReply (d : Domain) (ws : List (Loc × Word)) (s : State) :
    (bramWrites d ws s).pReply = s.pReply := by
  rw [bramWrites_eq]
@[simp] theorem bramWrites_pTries (d : Domain) (ws : List (Loc × Word)) (s : State) :
    (bramWrites d ws s).pTries = s.pTries := by
  rw [bramWrites_eq]
@[simp] theorem bramWrites_qTodo (d : Domain) (ws : List (Loc × Word)) (s : State) :
    (bramWrites d ws s).qTodo = s.qTodo := by
  rw [bramWrites_eq]
@[simp] theorem bramWrites_qPending (d : Domain) (ws : List (Loc × Word)) (s : State) :
    (bramWrites d ws s).qPending = s.qPending := by
  rw [bramWrites_eq]
@[simp] theorem bramWrites_gainCount (d : Domain) (ws : List (Loc × Word)) (s : State) :
    (bramWrites d ws s).gainCount = s.gainCount := by
  rw [bramWrites_eq]
@[simp] theorem bramWrites_gainPasses (d : Domain) (ws : List (Loc × Word)) (s : State) :
    (bramWrites d ws s).gainPasses = s.gainPasses := by
  rw [bramWrites_eq]
@[simp] theorem bramWrites_tabOld (d : Domain) (ws : List (Loc × Word)) (s : State) :
    (bramWrites d ws s).tabOld = s.tabOld := by
  rw [bramWrites_eq]
@[simp] theorem bramWrites_emitDue (d : Domain) (ws : List (Loc × Word)) (s : State) :
    (bramWrites d ws s).emitDue = s.emitDue := by
  rw [bramWrites_eq]
@[simp] theorem bramWrites_draws (d : Domain) (ws : List (Loc × Word)) (s : State) :
    (bramWrites d ws s).draws = s.draws := by
  rw [bramWrites_eq]
@[simp] theorem bramWrites_sched (d : Domain) (ws : List (Loc × Word)) (s : State) :
    (bramWrites d ws s).sched = s.sched := by
  rw [bramWrites_eq]
@[simp] theorem bramWrites_pIn (d : Domain) (ws : List (Loc × Word)) (s : State) :
    (bramWrites d ws s).pIn = s.pIn := by
  rw [bramWrites_eq]
@[simp] theorem bramWrites_qIn (d : Domain) (ws : List (Loc × Word)) (s : State) :
    (bramWrites d ws s).qIn = s.qIn := by
  rw [bramWrites_eq]
@[simp] theorem bramWrites_answers (d : Domain) (ws : List (Loc × Word)) (s : State) :
    (bramWrites d ws s).answers = s.answers := by
  rw [bramWrites_eq]

/-- The requests of a list of writes are recorded in their order. -/
theorem bramWrites_bus (d : Domain) (ws : List (Loc × Word)) (s : State) :
    (bramWrites d ws s).bus = (ws.map fun w => BusReq.write d w.1 w.2).reverse ++ s.bus := by
  induction ws generalizing s with
  | nil => rfl
  | cons w ws ih =>
    obtain ⟨l, v⟩ := w
    simp [bramWrites, ih]

/-- The requests newly made, from the record. -/
theorem newRequests_eq (s t : State) (rs : List BusReq) (h : t.bus = rs.reverse ++ s.bus) : newRequests s t = rs := by
  simp [newRequests, h]

/-- The device writes newly made, from the record of writes alone. -/
theorem newWrites_eq (d : Domain) (s t : State) (ws : List (Loc × Word))
    (h : t.bus = (ws.map fun w => BusReq.write d w.1 w.2).reverse ++ s.bus) : newWrites s t = ws := by
  rw [newWrites, newRequests_eq s t _ h]
  clear h
  induction ws with
  | nil => rfl
  | cons w ws ih => simp [BusReq.asWrite, ih]

@[simp] theorem bramWrites_nil (d : Domain) (s : State) : bramWrites d [] s = s := rfl

@[simp] theorem bramWrites_cons (d : Domain) (w : Loc × Word) (ws : List (Loc × Word)) (s : State) :
    bramWrites d (w :: ws) s = bramWrites d ws (bramWrite d w.1 w.2 s) := rfl

/-- Two lists of writes, one after the other. -/
theorem bramWrites_append (d : Domain) (ws us : List (Loc × Word)) (s : State) :
    bramWrites d (ws ++ us) s = bramWrites d us (bramWrites d ws s) := by
  induction ws generalizing s with
  | nil => rfl
  | cons w ws ih => simp [ih]

@[simp] theorem cycle_bramWrites (ch : Channel) (d : Domain) (ws : List (Loc × Word)) (s : State) :
    ch.cycle (bramWrites d ws s) = ch.cycle s := by
  cases ch <;> simp [Channel.cycle]

/-! ## Outcomes -/

@[simp] theorem onNext_next (s : State) (f : State → Result) : onNext (.next s) f = f s := rfl

@[simp] theorem onNext_fault (r : Fault) (f : State → Result) : onNext (.fault r) f = .fault r := rfl

@[simp] theorem onNext_refused (r : Refusal) (f : State → Result) : onNext (.refused r) f = .refused r := rfl

/-- A sequence answers a next state exactly when its first part does and the rest does from there. -/
theorem onNext_eq_next (o : Result) (f : State → Result) (t : State) :
    onNext o f = .next t ↔ ∃ s, o = .next s ∧ f s = .next t := by
  cases o <;> simp

end Sys2Proof.Machine
end

