-- ==== Sys2Proof/Laws/Memory.lean ====
section
/-! SUPPORT. The laws of the device memory: a byte reads as last written, every other byte as before, and every memory
operation keeps the canonical form. -/

namespace Sys2Proof.Machine

/-- A list whose addresses start at `lo` holds nothing below `lo`. -/
theorem readByte_below (m : Memory) (lo a : Nat) (h : Memory.wfFrom lo m = true) (ha : a < lo) :
    m.readByte a = unlistedByte := by
  induction m generalizing lo with
  | nil => rfl
  | cons c m ih =>
    obtain ⟨b, u⟩ := c
    simp only [Memory.wfFrom, Bool.and_eq_true, decide_eq_true_eq] at h
    have hne : a ≠ b := by omega
    rw [Memory.readByte, if_neg hne]
    exact ih (b + 1) h.2 (by omega)

/-- Reading a byte after writing one, in any list. -/
theorem readByte_writeByte_of_wfFrom (m : Memory) (lo a x : Nat) (v : Byte) (h : Memory.wfFrom lo m = true) :
    (m.writeByte a v).readByte x = if x = a then v else m.readByte x := by
  induction m generalizing lo with
  | nil =>
    by_cases hv : v = unlistedByte
    · by_cases hx : x = a <;> simp [Memory.writeByte, Memory.readByte, hv, hx]
    · by_cases hx : x = a <;> simp [Memory.writeByte, Memory.readByte, hv, hx]
  | cons c m ih =>
    obtain ⟨b, u⟩ := c
    simp only [Memory.wfFrom, Bool.and_eq_true, decide_eq_true_eq] at h
    have below : ∀ y, y ≤ b → Memory.readByte m y = unlistedByte :=
      fun y hy => readByte_below m (b + 1) y h.2 (by omega)
    rcases Nat.lt_trichotomy a b with hab | hab | hab
    · by_cases hv : v = unlistedByte
      · have same : Memory.writeByte ((b, u) :: m) a v = (b, u) :: m := by simp [Memory.writeByte, hab, hv]
        rw [same]
        by_cases hx : x = a
        · rw [if_pos hx, Memory.readByte, if_neg (by omega), below x (by omega), hv]
        · rw [if_neg hx]
      · have new : Memory.writeByte ((b, u) :: m) a v = (a, v) :: (b, u) :: m := by simp [Memory.writeByte, hab, hv]
        rw [new, Memory.readByte]
    · subst hab
      by_cases hv : v = unlistedByte
      · have gone : Memory.writeByte ((a, u) :: m) a v = m := by simp [Memory.writeByte, hv]
        rw [gone]
        by_cases hx : x = a
        · rw [if_pos hx, hx, below a le_rfl, hv]
        · rw [if_neg hx, Memory.readByte, if_neg hx]
      · have set : Memory.writeByte ((a, u) :: m) a v = (a, v) :: m := by simp [Memory.writeByte, hv]
        rw [set]
        by_cases hx : x = a <;> simp [Memory.readByte, hx]
    · have later : Memory.writeByte ((b, u) :: m) a v = (b, u) :: Memory.writeByte m a v := by
        simp [Memory.writeByte, Nat.not_lt.mpr hab.le, hab.ne']
      rw [later, Memory.readByte]
      by_cases hx : x = b
      · rw [if_pos hx, if_neg (by omega), Memory.readByte, if_pos hx]
      · rw [if_neg hx, ih (b + 1) h.2, Memory.readByte, if_neg hx]

/-- Writing a byte at or above `lo` keeps the form. -/
theorem writeByte_wfFrom (m : Memory) (lo a : Nat) (v : Byte) (h : Memory.wfFrom lo m = true) (ha : lo ≤ a) :
    Memory.wfFrom lo (m.writeByte a v) = true := by
  induction m generalizing lo with
  | nil =>
    by_cases hv : v = unlistedByte <;> simp [Memory.writeByte, Memory.wfFrom, hv, ha]
  | cons c m ih =>
    obtain ⟨b, u⟩ := c
    have h' := h
    simp only [Memory.wfFrom, Bool.and_eq_true, decide_eq_true_eq] at h
    obtain ⟨⟨hlo, hu⟩, hm⟩ := h
    simp only [Memory.writeByte]
    split_ifs with h1 h2 h3 h4
    · exact h'
    · simp [Memory.wfFrom, ha, h2, hm, bne_iff_ne.mp hu, Nat.succ_le_of_lt h1]
    · subst h3
      clear ih h'
      cases m with
      | nil => rfl
      | cons c m =>
        obtain ⟨b', u'⟩ := c
        simp only [Memory.wfFrom, Bool.and_eq_true, decide_eq_true_eq] at hm ⊢
        exact ⟨⟨by omega, hm.1.2⟩, hm.2⟩
    · subst h3
      simp [Memory.wfFrom, ha, h4, hm]
    · have := ih (b + 1) hm (by omega)
      simp [Memory.wfFrom, hlo, bne_iff_ne.mp hu, this]

/-- Writing a byte keeps the canonical form. -/
theorem writeByte_wf (m : Memory) (a : Nat) (v : Byte) (h : m.wf = true) : (m.writeByte a v).wf = true :=
  writeByte_wfFrom m 0 a v h (Nat.zero_le a)

/-- Read after write, in a memory in canonical form. -/
theorem readByte_writeByte (m : Memory) (a x : Nat) (v : Byte) (h : m.wf = true) :
    (m.writeByte a v).readByte x = if x = a then v else m.readByte x :=
  readByte_writeByte_of_wfFrom m 0 a x v h

/-- Writing a word keeps the canonical form. -/
theorem writeWord_wf (m : Memory) (a : Nat) (v : Word) (h : m.wf = true) : (m.writeWord a v).wf = true :=
  writeByte_wf _ _ _ (writeByte_wf m a _ h)

/-- A byte after writing a word. -/
theorem readByte_writeWord (m : Memory) (a x : Nat) (v : Word) (h : m.wf = true) :
    (m.writeWord a v).readByte x = if x = a + 1 then hiByte v else if x = a then loByte v else m.readByte x := by
  rw [Memory.writeWord, readByte_writeByte _ _ _ _ (writeByte_wf m a _ h), readByte_writeByte _ _ _ _ h]

/-- Read after write of a word at one place. -/
theorem readWord_writeWord_same (m : Memory) (a : Nat) (v : Word) (h : m.wf = true) :
    (m.writeWord a v).readWord a = v := by
  simp [Memory.readWord, readByte_writeWord _ _ _ _ h]

/-- Read after write of words at places that share no byte. -/
theorem readWord_writeWord_apart (m : Memory) (a b : Nat) (v : Word) (h : m.wf = true) (hab : a + 1 < b ∨ b + 1 < a) :
    (m.writeWord a v).readWord b = m.readWord b := by
  simp only [Memory.readWord, readByte_writeWord _ _ _ _ h]
  rw [if_neg (by omega), if_neg (by omega), if_neg (by omega), if_neg (by omega)]

/-- A write to the device keeps the canonical form. -/
theorem bramWrite_wf (d : Domain) (l : Loc) (v : Word) (s : State) (h : s.mem.wf = true) :
    (bramWrite d l v s).mem.wf = true :=
  writeWord_wf _ _ _ h

/-- A list of writes keeps the canonical form. -/
theorem bramWrites_wf (d : Domain) (ws : List (Loc × Word)) (s : State) (h : s.mem.wf = true) :
    (bramWrites d ws s).mem.wf = true := by
  induction ws generalizing s with
  | nil => exact h
  | cons w ws ih => exact ih _ (bramWrite_wf d w.1 w.2 s h)

/-- Memory does not depend on the domain whose port makes the writes. -/
theorem bramWrites_mem_domain (d e : Domain) (ws : List (Loc × Word)) (s u : State) (hc : s.cfg = u.cfg)
    (hm : s.mem = u.mem) : (bramWrites d ws s).mem = (bramWrites e ws u).mem := by
  induction ws generalizing s u with
  | nil => exact hm
  | cons w ws ih =>
    refine ih _ _ hc ?_
    simp [State.byteAddr, State.modBase, State.stmBase, State.ctrlReg, hc, hm]

end Sys2Proof.Machine
end

