-- ==== Sys2Proof/Laws/Writer.lean ====
section
/-! SUPPORT. What the ring writer's shared operations can do, once for each: when they answer a next state, when a fault
mark, and the shape of the next state (41_ring_writer.md, 44_gain_writer.md rule R213). -/

namespace Sys2Proof.Machine

/-! ## Counters -/

@[simp] theorem setCycle_mod (c : Count) (s : State) : Channel.mod.setCycle c s = { s with modCycle := c } := rfl
@[simp] theorem setCycle_pstm (c : Count) (s : State) : Channel.pstm.setCycle c s = { s with stmCycle := c } := rfl
@[simp] theorem setCycle_gstm (c : Count) (s : State) : Channel.gstm.setCycle c s = { s with stmCycle := c } := rfl
@[simp] theorem cycle_mod (s : State) : Channel.mod.cycle s = s.modCycle := rfl
@[simp] theorem cycle_pstm (s : State) : Channel.pstm.cycle s = s.stmCycle := rfl
@[simp] theorem cycle_gstm (s : State) : Channel.gstm.cycle s = s.stmCycle := rfl

/-- The offset is the counter modulo the segment size (41_ring_writer.md rule R152). -/
theorem off_eq (ch : Channel) (cycle : Count) : ch.off cycle = cycle.toNat % ch.size := by
  have h : ∀ k : Nat, k ≤ 32 → (cycle &&& BitVec.ofNat 32 (2 ^ k - 1)).toNat = cycle.toNat % 2 ^ k := by
    intro k hk
    have h1 : 2 ^ k ≤ 2 ^ 32 := Nat.pow_le_pow_right (by decide) hk
    have h2 : 0 < 2 ^ k := Nat.two_pow_pos k
    have h3 : 2 ^ Config.cycleBits = 2 ^ 32 := rfl
    rw [BitVec.toNat_and, BitVec.toNat_ofNat, Nat.mod_eq_of_lt (a := 2 ^ k - 1) (by omega),
      Nat.and_two_pow_sub_one_eq_mod]
  cases ch
  · exact h 15 (by decide)
  · exact h 11 (by decide)
  · exact h 5 (by decide)

/-- The room left in the segment is at least 1 and at most the segment (rule R152). -/
theorem cap_eq (ch : Channel) (cycle : Count) : ch.cap cycle = ch.size - cycle.toNat % ch.size := by
  rw [Channel.cap, off_eq]

@[simp] theorem size_mod : Channel.mod.size = 32768 := rfl
@[simp] theorem size_pstm : Channel.pstm.size = 2048 := rfl
@[simp] theorem size_gstm : Channel.gstm.size = 32 := rfl

/-- The value of the segment-base register as arithmetic (rules R152 and R155). -/
theorem baseOf_eq (ch : Channel) (cycle : Count) : ch.baseOf cycle = BitVec.ofNat 16 (cycle.toNat / ch.size) := by
  apply BitVec.eq_of_toNat_eq
  simp [Channel.baseOf, trunc16, Channel.size, Nat.shiftRight_eq_div_pow]

/-- The value of the length register as arithmetic (rule R157). -/
theorem lengthOf_eq (cycle : Count) : lengthOf cycle = BitVec.ofNat 16 (max 1 cycle.toNat - 1) := by
  apply BitVec.eq_of_toNat_eq
  by_cases h : cycle = 0#32
  · subst h
    rfl
  · have h0 : cycle.toNat ≠ 0 := fun hc => h (BitVec.eq_of_toNat_eq hc)
    have h1 : max 1 cycle.toNat = cycle.toNat := by omega
    have h2 := cycle.isLt
    simp only [lengthOf, trunc16, if_neg h, h1, BitVec.truncate_eq_setWidth, BitVec.toNat_setWidth, BitVec.toNat_sub,
      BitVec.toNat_ofNat, Config.cycleBits]
    omega

/-! ## The shapes of next states -/

/-- What a list of device writes leaves: everything but the memory and the record of requests. -/
theorem bramWrites_shape (d : Domain) (ws : List (Loc × Word)) (s : State) :
    ∃ m b, bramWrites d ws s = { s with mem := m, bus := b } ∧ (s.mem.wf = true → m.wf = true) :=
  ⟨_, _, bramWrites_eq d ws s, bramWrites_wf d ws s⟩

/-- SEG.BEGIN (rule R158). -/
theorem segBegin_shape (ch : Channel) (s : State) :
    ∃ m, segBegin ch s =
        { ch.setCycle 0#32 s with
          mem := m, wDone := true, bus := .write .q (.ctrl (ch.baseReg s.cfg)) 0#16 :: s.bus } ∧
      (s.mem.wf = true → m.wf = true) := by
  cases ch <;> exact ⟨_, rfl, writeWord_wf _ _ _⟩

/-- SEG.END (rule R157). -/
theorem segEnd_shape (ch : Channel) (s : State) :
    ∃ m, segEnd ch s =
        { s with
          mem := m, wDone := true
          bus := .write .q (.ctrl (ch.lenReg s.cfg)) (lengthOf (ch.cycle s)) :: s.bus } ∧
      (s.mem.wf = true → m.wf = true) :=
  ⟨_, rfl, writeWord_wf _ _ _⟩

/-- The lazy rebase writes at most the one register (rules R155 and R156). -/
theorem lazyRebase_shape (ch : Channel) (s : State) :
    ∃ m b, lazyRebase ch s = { s with mem := m, bus := b } ∧ (s.mem.wf = true → m.wf = true) := by
  unfold lazyRebase
  split
  · exact ⟨_, _, rfl, writeWord_wf _ _ _⟩
  · exact ⟨s.mem, s.bus, rfl, id⟩

/-- The boundary test of the gain writer writes at most the one register (44_gain_writer.md rule R213). -/
theorem eagerRebase_shape (s : State) :
    ∃ m b, eagerRebase s = { s with mem := m, bus := b } ∧ (s.mem.wf = true → m.wf = true) := by
  unfold eagerRebase
  split
  · exact ⟨_, _, rfl, writeWord_wf _ _ _⟩
  · exact ⟨s.mem, s.bus, rfl, id⟩

/-- The two arms of SEG.WRITE advance the counter by the units written (rules R154 and R155). -/
theorem writeUnits_shape (ch : Channel) (n : Nat) (src : List Word) (s : State) :
    ∃ m b, writeUnits ch n src s =
        ch.setCycle (ch.cycle s + BitVec.ofNat 32 n) { s with mem := m, bus := b } ∧
      (s.mem.wf = true → m.wf = true) := by
  unfold writeUnits
  by_cases h : n ≤ ch.cap (ch.cycle s)
  · simp only [if_pos h]
    obtain ⟨m, b, hw, hm⟩ := bramWrites_shape .q (putUnits ch (ch.off (ch.cycle s)) n src) s
    exact ⟨m, b, by rw [hw], hm⟩
  · simp only [if_neg h]
    have sum : ch.cycle s + BitVec.ofNat 32 (ch.cap (ch.cycle s)) + BitVec.ofNat 32 (n - ch.cap (ch.cycle s)) =
        ch.cycle s + BitVec.ofNat 32 n := by
      apply BitVec.eq_of_toNat_eq
      simp only [BitVec.toNat_add, BitVec.toNat_ofNat, Config.cycleBits]
      omega
    obtain ⟨m, b, hw, hm⟩ := bramWrites_shape .q (putUnits ch (ch.off (ch.cycle s)) (ch.cap (ch.cycle s)) src) s
    rw [hw]
    generalize ch.cycle s + BitVec.ofNat 32 (ch.cap (ch.cycle s)) = boundary at sum ⊢
    obtain ⟨m2, b2, hw2, hm2⟩ := bramWrites_shape .q
      (putUnits ch 0 (n - ch.cap (ch.cycle s)) (dropUnits ch (ch.cap (ch.cycle s)) src))
      (writeBase ch boundary (ch.setCycle boundary { s with mem := m, bus := b }))
    rw [hw2, sum]
    refine ⟨m2, b2, ?_, fun h0 => hm2 ?_⟩
    · cases ch <;> rfl
    · cases ch <;> exact writeWord_wf _ _ _ (hm h0)

/-- When SEG.WRITE answers a next state, and which (rules R155 and R161, 42_mod_writer.md rule R182, 60_exceptions.md rule
R274). -/
theorem segWrite_next (ch : Channel) (n : BitVec 16) (src : List Word) (s t : State) :
    segWrite ch n src s = .next t ↔
      n.toNat ≤ ch.cap (ch.cycle s) + ch.size ∧
        ((n = 0#16 ∧ t = writerDone s) ∨
          (n ≠ 0#16 ∧ ¬(ch = .mod ∧ (ch.cycle s).getLsbD 0 = true) ∧
            t = writerDone (writeUnits ch n.toNat src (lazyRebase ch s)))) := by
  unfold segWrite
  dsimp only
  by_cases h1 : ch.cap (ch.cycle s) + ch.size < n.toNat
  · rw [if_pos h1]
    exact ⟨nofun, fun h => absurd h.1 (Nat.not_le.mpr h1)⟩
  · rw [if_neg h1]
    by_cases h2 : n = 0#16
    · rw [if_pos h2]
      exact ⟨fun h => by cases h; exact ⟨Nat.not_lt.mp h1, .inl ⟨h2, rfl⟩⟩, fun h => by
        obtain ⟨-, ⟨-, rfl⟩ | ⟨h3, -⟩⟩ := h
        · rfl
        · exact absurd h2 h3⟩
    · rw [if_neg h2]
      by_cases h3 : ch = .mod ∧ (ch.cycle s).getLsbD 0 = true
      · rw [if_pos h3]
        exact ⟨nofun, fun h => by
          obtain ⟨-, ⟨h4, -⟩ | ⟨-, h4, -⟩⟩ := h
          · exact absurd h4 h2
          · exact absurd h3 h4⟩
      · rw [if_neg h3]
        exact ⟨fun h => by cases h; exact ⟨Nat.not_lt.mp h1, .inr ⟨h2, h3, rfl⟩⟩, fun h => by
          obtain ⟨-, ⟨h4, -⟩ | ⟨-, -, rfl⟩⟩ := h
          · exact absurd h4 h2
          · rfl⟩

/-- When SEG.WRITE raises a fault mark, and which (60_exceptions.md rules R272 and R274). -/
theorem segWrite_fault (ch : Channel) (n : BitVec 16) (src : List Word) (s : State) (r : Fault) :
    segWrite ch n src s = .fault r ↔
      (ch.cap (ch.cycle s) + ch.size < n.toNat ∧ r = .segOverrun ch (ch.cycle s) n) ∨
        (n.toNat ≤ ch.cap (ch.cycle s) + ch.size ∧ n ≠ 0#16 ∧ (ch = .mod ∧ (ch.cycle s).getLsbD 0 = true) ∧
          r = .modOddOffset (ch.cycle s) n) := by
  unfold segWrite
  dsimp only
  by_cases h1 : ch.cap (ch.cycle s) + ch.size < n.toNat
  · rw [if_pos h1]
    exact ⟨fun h => by cases h; exact .inl ⟨h1, rfl⟩, fun h => by
      obtain ⟨-, rfl⟩ | ⟨h2, -⟩ := h
      · rfl
      · exact absurd h2 (Nat.not_le.mpr h1)⟩
  · rw [if_neg h1]
    by_cases h2 : n = 0#16
    · rw [if_pos h2]
      exact ⟨nofun, fun h => by
        obtain ⟨h3, -⟩ | ⟨-, h3, -⟩ := h
        · exact absurd h3 h1
        · exact absurd h2 h3⟩
    · rw [if_neg h2]
      by_cases h3 : ch = .mod ∧ (ch.cycle s).getLsbD 0 = true
      · rw [if_pos h3]
        exact ⟨fun h => by cases h; exact .inr ⟨Nat.not_lt.mp h1, h2, h3, rfl⟩, fun h => by
          obtain ⟨h4, -⟩ | ⟨-, -, -, rfl⟩ := h
          · exact absurd h4 h1
          · rfl⟩
      · rw [if_neg h3]
        exact ⟨nofun, fun h => by
          obtain ⟨h4, -⟩ | ⟨-, -, h4, -⟩ := h
          · exact absurd h4 h1
          · exact absurd h4 h3⟩

/-- SEG.WRITE is turned away by nothing (60_exceptions.md rule R270). -/
theorem segWrite_not_refused (ch : Channel) (n : BitVec 16) (src : List Word) (s : State) (r : Refusal) :
    segWrite ch n src s ≠ .refused r := by
  unfold segWrite
  simp only
  split_ifs <;> simp

/-- The shape of what SEG.WRITE leaves. -/
theorem segWrite_shape (ch : Channel) (n : BitVec 16) (src : List Word) (s t : State)
    (h : segWrite ch n src s = .next t) :
    ∃ m b, t = { ch.setCycle (ch.cycle s + n.zeroExtend 32) s with mem := m, bus := b, wDone := true } ∧
      (s.mem.wf = true → m.wf = true) := by
  have hn : BitVec.ofNat 32 n.toNat = n.zeroExtend 32 := by
    apply BitVec.eq_of_toNat_eq
    simp
  obtain ⟨-, ⟨rfl, rfl⟩ | ⟨-, -, rfl⟩⟩ := (segWrite_next ch n src s t).1 h
  · refine ⟨s.mem, s.bus, ?_, id⟩
    cases ch <;> simp [writerDone]
  · obtain ⟨m, b, h1, hm⟩ := lazyRebase_shape ch s
    obtain ⟨m2, b2, h2, hm2⟩ := writeUnits_shape ch n.toNat src (lazyRebase ch s)
    rw [h2, hn, h1]
    refine ⟨m2, b2, ?_, fun h0 => hm2 (by rw [h1]; exact hm h0)⟩
    cases ch <;> rfl

/-- When SEG.WRITE.GSTM answers a next state, and which (44_gain_writer.md rule R213). -/
theorem segWriteGain_next (m : BitVec 16) (passes : List Pass) (s t : State) :
    segWriteGain m passes s = .next t ↔
      m.toNat ≤ 32 ∧
        t = writerDone (eagerRebase (Channel.gstm.setCycle (s.stmCycle + m.zeroExtend 32)
          (bramWrites .q (slotWrites s.stmCycle (passes.take m.toNat)) s))) := by
  unfold segWriteGain
  by_cases h : Channel.gstm.size < m.toNat
  · rw [if_pos h]
    exact ⟨nofun, fun h' => absurd h'.1 (Nat.not_le.mpr h)⟩
  · rw [if_neg h]
    exact ⟨fun h' => by cases h'; exact ⟨Nat.not_lt.mp h, rfl⟩, fun h' => by rw [h'.2]⟩

/-- When SEG.WRITE.GSTM raises the fault mark (rule R213). -/
theorem segWriteGain_fault (m : BitVec 16) (passes : List Pass) (s : State) (r : Fault) :
    segWriteGain m passes s = .fault r ↔ 32 < m.toNat ∧ r = .segOverrun .gstm s.stmCycle m := by
  unfold segWriteGain
  by_cases h : Channel.gstm.size < m.toNat
  · rw [if_pos h]
    exact ⟨fun h' => by cases h'; exact ⟨h, rfl⟩, fun h' => by rw [h'.2]⟩
  · rw [if_neg h]
    exact ⟨nofun, fun h' => absurd h'.1 h⟩

/-- SEG.WRITE.GSTM is turned away by nothing. -/
theorem segWriteGain_not_refused (m : BitVec 16) (passes : List Pass) (s : State) (r : Refusal) :
    segWriteGain m passes s ≠ .refused r := by
  unfold segWriteGain
  split <;> simp

/-- The shape of what SEG.WRITE.GSTM leaves. -/
theorem segWriteGain_shape (m : BitVec 16) (passes : List Pass) (s t : State) (h : segWriteGain m passes s = .next t) :
    ∃ mem b, t = { s with stmCycle := s.stmCycle + m.zeroExtend 32, mem := mem, bus := b, wDone := true } ∧
      (s.mem.wf = true → mem.wf = true) := by
  obtain ⟨-, rfl⟩ := (segWriteGain_next m passes s t).1 h
  obtain ⟨m1, b1, h1, hm1⟩ := bramWrites_shape .q (slotWrites s.stmCycle (passes.take m.toNat)) s
  rw [h1]
  obtain ⟨m2, b2, h2, hm2⟩ := eagerRebase_shape
    (Channel.gstm.setCycle (s.stmCycle + m.zeroExtend 32) { s with mem := m1, bus := b1 })
  rw [h2]
  exact ⟨m2, b2, rfl, fun h0 => hm2 (hm1 h0)⟩

/-- A pass builder makes at most four passes (44_gain_writer.md rule R221), so the gain writer never overruns. -/
theorem gainPassesOf_length (g : GainMode) (s : State) : (gainPassesOf g s).length ≤ 4 := by
  cases g
  · simp only [gainPassesOf, phaseDutyFullPasses]
    split_ifs
    · simp
    · simp
    · split <;> simp
  · simp only [gainPassesOf, phaseFullPasses]
    split_ifs <;> simp
  · simp only [gainPassesOf, phaseHalfPasses]
    split_ifs <;> simp

end Sys2Proof.Machine
end

