-- ==== Sys2Proof/Laws/Ops.lean ====
section
/-! SUPPORT. What the other shared operations can do, once for each: the mailbox, the arrival path, the periodic path, the
power-on reset, and the step (40_mailbox.md, 45_dispatch_apply.md, 70_reset_and_hazards.md). -/

namespace Sys2Proof.Machine

/-! ## The mailbox -/

/-- MBX.PUSH does one of two things (40_mailbox.md rule R123). -/
theorem pushEntry_cases (e : Entry) (s : State) :
    (fullP s = true ∧ pushEntry e s = { s with pOk := false }) ∨
      (fullP s = false ∧ pushEntry e s =
        { s with
          slots := s.slots.set s.wrBin.toNat e s.wrBin.isLt
          wrBin := inc5 s.wrBin, wrGray := gray5 (inc5 s.wrBin), pOk := true }) := by
  unfold pushEntry
  cases h : fullP s
  · exact .inr ⟨rfl, rfl⟩
  · exact .inl ⟨rfl, rfl⟩

/-- MBX.POP does one of two things (rule R124). -/
theorem popEntry_cases (s : State) :
    (emptyQ s = true ∧ popEntry s = { s with qEntry := none }) ∨
      (emptyQ s = false ∧ popEntry s =
        { s with
          qEntry := some (s.slots[s.rdBin.toNat]'s.rdBin.isLt)
          rdBin := inc5 s.rdBin, rdGray := gray5 (inc5 s.rdBin) }) := by
  unfold popEntry
  cases h : emptyQ s
  · exact .inr ⟨rfl, rfl⟩
  · exact .inl ⟨rfl, rfl⟩

/-- One attempt of the retry loop does one of three things (rule R134). -/
theorem enqAttempt_cases (s : State) :
    (fullP s = false ∧ enqAttempt s = .next { pushEntry s.pStage s with pTries := 0 }) ∨
      (fullP s = true ∧ s.cfg.retryLimit ≠ some (s.pTries + 1) ∧
        enqAttempt s = .next { s with pOk := false, pTries := s.pTries + 1, pTodo := .enq :: s.pTodo }) ∨
      (fullP s = true ∧ s.cfg.retryLimit = some (s.pTries + 1) ∧
        enqAttempt s = .fault (.mailboxOverflow s.wrBin s.rdGrayP)) := by
  unfold enqAttempt
  cases h : fullP s
  · exact .inl ⟨rfl, rfl⟩
  · by_cases h2 : s.cfg.retryLimit = some (s.pTries + 1)
    · exact .inr (.inr ⟨rfl, h2, by simp [h2]⟩)
    · exact .inr (.inl ⟨rfl, h2, by simp [h2, holdP]⟩)

/-- `full_p` is the producer's view at 31 entries (rule R125). -/
theorem fullP_iff (s : State) : fullP s = true ↔ dist (ungray5 s.rdGrayP) s.wrBin = 31 := by
  have h : fullP s = true ↔ inc5 s.wrBin = ungray5 s.rdGrayP := by
    rw [fullP, beq_iff_eq]
    constructor
    · intro h
      rw [← h, ungray5_gray5]
    · intro h
      rw [h, gray5_ungray5]
  rw [h, ← BitVec.toNat_inj, inc5_toNat, dist_eq]
  have := cursor_lt s.wrBin
  have := cursor_lt (ungray5 s.rdGrayP)
  omega

/-- A place reached by `j` steps from `a`, `j` at most the distance, is on the path (section 2). -/
theorem onPath_add (a b : Cursor) (j : Nat) (h : j ≤ dist a b) : onPath a b (a + BitVec.ofNat 5 j) = true := by
  have hb := dist_lt a b
  rw [dist_eq] at h hb
  rw [onPath, decide_eq_true_eq, dist_eq, dist_eq, add_ofNat_toNat]
  have := cursor_lt a
  have := cursor_lt b
  omega

/-- A synchroniser's sample is on its path, whatever the environment names (rule R127). -/
theorem syncSample_onPath (a b : Cursor) (k : Option Cursor) (d : Nat) : onPath a b (syncSample a b k d) = true := by
  have free : onPath a b (a + BitVec.ofNat 5 (Config.syncPick d % (dist a b + 1))) = true :=
    onPath_add a b _ (Nat.lt_succ_iff.mp (Nat.mod_lt _ (Nat.succ_pos _)))
  unfold syncSample
  split
  · split
    · assumption
    · exact free
  · exact free

/-- A member of a path named by the environment is what the synchroniser samples (rule R127). -/
theorem syncSample_named (a b v : Cursor) (d : Nat) (h : onPath a b v = true) : syncSample a b (some v) d = v := by
  simp [syncSample, h]

/-- Going on from a member of a path: the two parts add up to the whole. -/
theorem onPath_split (a b v : Cursor) (h : onPath a b v = true) : dist a v + dist v b = dist a b := by
  rw [onPath, decide_eq_true_eq] at h
  have := dist_lt a b
  rw [dist_eq, dist_eq] at *
  rw [dist_eq]
  have := cursor_lt a
  have := cursor_lt b
  have := cursor_lt v
  omega

/-! ## The arrival path -/

/-- The global clear, once domain Q is between ticks: what it sets, and the memory it leaves (45_dispatch_apply.md rule
R252). -/
theorem globalClear_shape (s : State) :
    ∃ m b, globalClear s =
        { s with
          readsInfo := false, ack := 0#16, modCycle := 2#32, stmCycle := 0#32, wDone := true
          wrBin := 0#5, wrGray := 0#5, rdGrayP := 0#5, rdBin := 0#5, rdGray := 0#5, wrGrayQ := 0#5
          slots := Vector.replicate 32 (zeroEntry s.cfg), pStage := zeroEntry s.cfg, qStage := zeroEntry s.cfg
          mem := m, bus := b } ∧
      (s.mem.wf = true → m.wf = true) := by
  unfold globalClear
  dsimp only
  generalize hA : [(Loc.ctrl s.cfg.aCtlReg, s.cfg.fpgaLegacyMode), (Loc.ctrl s.cfg.aSilentStep, s.cfg.silentStepDefault),
    (Loc.ctrl s.cfg.aSilentCycle, s.cfg.silentCycleDefault)] = first
  obtain ⟨m1, b1, h1, hm1⟩ := bramWrites_shape .p first { s with readsInfo := false, ack := 0#16 }
  rw [h1]
  obtain ⟨m2, b2, h2, hm2⟩ := bramWrites_shape .p (clearWrites s.cfg)
    (segResetCounters { s with readsInfo := false, ack := 0#16, mem := m1, bus := b1 })
  rw [h2]
  exact ⟨m2, b2, rfl, fun h => hm2 (hm1 h)⟩

/-- The synchronize operation (rule R254). -/
theorem synchronize_shape (s : State) :
    ∃ m b, synchronize s =
        { s with
          cycleTab := bodyWords s.cfg s.pStage.body s.draws, tabOld := some s.cycleTab, draws := s.draws + 1
          mem := m, bus := b } ∧
      (s.mem.wf = true → m.wf = true) := by
  obtain ⟨m, b, h, hm⟩ := bramWrites_shape .p (syncWrites s.cfg s.pStage s.draws) s
  refine ⟨m, b, ?_, hm⟩
  rw [synchronize, h]

/-- ACK.UPDATE writes the acknowledgment, its port, and what a read of the status word takes (rule R255). -/
theorem updateAck_shape (s : State) :
    ∃ a as b d, updateAck s =
      { s with ack := wordOf a s.prevId, ackOut := wordOf a s.prevId, tabOld := none, answers := as, bus := b, draws := d } := by
  unfold updateAck
  split
  · exact ⟨_, _, _, _, rfl⟩
  · exact ⟨_, _, _, _, rfl⟩

/-- ARRIVE, the two arms (rules R236 to R239). -/
theorem arriveFrame_cases (e : Entry) (s : State) :
    (e.hdr.messageId = s.prevId ∧ arriveFrame e s =
        { s with pStage := e, pReply := none, pTodo := [.fDuplicate, .ackUpdate] }) ∨
      (e.hdr.messageId ≠ s.prevId ∧ arriveFrame e s =
        { s with
          pStage := e, pReply := none, pTodo := [commandOf s.cfg e.hdr, .ackUpdate], prevId := e.hdr.messageId
          readsInfo := hasFpga e.hdr.fpgaFlags s.cfg.fpgaReadsFpgaInfo }) := by
  by_cases h : e.hdr.messageId = s.prevId
  · exact .inl ⟨h, by simp [arriveFrame, dispatch, h]⟩
  · exact .inr ⟨h, by simp [arriveFrame, dispatch, h, wantsInfo]⟩

/-! ## The periodic path -/

/-- TICK up to its commands, the two arms (rule R240). -/
theorem startTick_cases (s : State) :
    (emptyQ s = true ∧ startTick s = { s with emitDue := s.emitDue + 1, qEntry := none }) ∨
      (emptyQ s = false ∧ ∃ e m, e = s.slots[s.rdBin.toNat]'s.rdBin.isLt ∧
        startTick s =
          { s with
            emitDue := s.emitDue + 1, qEntry := some e, rdBin := inc5 s.rdBin, rdGray := gray5 (inc5 s.rdBin)
            qStage := e, qBusy := true, qTodo := applyCommands s.cfg e.hdr, mem := m
            bus := .write .q (.ctrl s.cfg.aCtlReg) (e.hdr.fpgaFlags.zeroExtend 16) :: s.bus } ∧
        (s.mem.wf = true → m.wf = true)) := by
  obtain ⟨h1, h2⟩ | ⟨h1, h2⟩ := popEntry_cases { s with emitDue := s.emitDue + 1 }
  · refine .inl ⟨h1, ?_⟩
    rw [startTick, h2]
  · refine .inr ⟨h1, _, (startTick s).mem, rfl, ?_, ?_⟩
    · rw [startTick, h2]
      rfl
    · rw [startTick, h2]
      exact writeWord_wf s.mem _ _

/-- The begin part of A.WRITE_MOD (42_mod_writer.md rule R184). -/
theorem beginMod_shape (s : State) :
    ∃ m b, beginMod s = { s with modCycle := 0#32, wDone := true, mem := m, bus := b } ∧
      (s.mem.wf = true → m.wf = true) := by
  obtain ⟨m, h, hm⟩ := segBegin_shape .mod s
  unfold beginMod
  rw [h]
  obtain ⟨m2, b2, h2, hm2⟩ := bramWrites_shape .q
    (pairWrites s.cfg.aModFreqDiv0 s.cfg.aModFreqDiv1 (loHalf (modDivisor s.qStage.hdr s.draws))
      (hiHalf (modDivisor s.qStage.hdr s.draws)))
    { Channel.mod.setCycle 0#32 s with
      mem := m, wDone := true, bus := .write .q (.ctrl (Channel.mod.baseReg s.cfg)) 0#16 :: s.bus }
  exact ⟨m2, b2, h2, fun h0 => hm2 (hm h0)⟩

/-- The begin part of A.POINT_STM (43_point_writer.md rule R199). -/
theorem beginPoint_shape (s : State) :
    ∃ m b, beginPoint s = { s with stmCycle := 0#32, wDone := true, mem := m, bus := b } ∧
      (s.mem.wf = true → m.wf = true) := by
  obtain ⟨m, h, hm⟩ := segBegin_shape .pstm s
  unfold beginPoint
  rw [h]
  obtain ⟨m2, b2, h2, hm2⟩ := bramWrites_shape .q
    (pairWrites s.cfg.aStmFreqDiv0 s.cfg.aStmFreqDiv1 (bodyWord s.qStage.body s.draws 1)
        (bodyWord s.qStage.body s.draws 2) ++
      pairWrites s.cfg.aSoundSpeed0 s.cfg.aSoundSpeed1 (bodyWord s.qStage.body s.draws 3)
        (bodyWord s.qStage.body s.draws 4))
    { Channel.pstm.setCycle 0#32 s with
      mem := m, wDone := true, bus := .write .q (.ctrl (Channel.pstm.baseReg s.cfg)) 0#16 :: s.bus }
  exact ⟨m2, b2, h2, fun h0 => hm2 (hm h0)⟩

/-- The head frame of A.GAIN_STM (44_gain_writer.md rule R216). -/
theorem beginGain_shape (s : State) :
    ∃ m b, beginGain s =
        { s with
          stmCycle := 0#32, wDone := true, gainMode := bodyWord s.qStage.body s.draws 2, draws := s.draws + 1
          mem := m, bus := b } ∧
      (s.mem.wf = true → m.wf = true) := by
  obtain ⟨m, h, hm⟩ := segBegin_shape .gstm s
  unfold beginGain
  rw [h]
  obtain ⟨m2, b2, h2, hm2⟩ := bramWrites_shape .q
    (pairWrites s.cfg.aStmFreqDiv0 s.cfg.aStmFreqDiv1 (bodyWord s.qStage.body s.draws 0)
      (bodyWord s.qStage.body s.draws 1))
    { Channel.gstm.setCycle 0#32 s with
      mem := m, wDone := true, bus := .write .q (.ctrl (Channel.gstm.baseReg s.cfg)) 0#16 :: s.bus }
  dsimp only
  rw [h2]
  exact ⟨m2, b2, rfl, fun h0 => hm2 (hm h0)⟩

/-- A.WRITE_MOD, when it answers a next state: the counter advanced by `size`, from 0 in a head frame (42_mod_writer.md rule
R184). -/
theorem execAWriteMod_shape (s t : State) (h : execAWriteMod s = .next t) :
    ∃ m b, t =
        { s with
          modCycle := (if qHas s s.cfg.cpuModBegin then 0#32 else s.modCycle) + s.qStage.hdr.size.zeroExtend 32
          wDone := true, draws := s.draws + 1, mem := m, bus := b } ∧
      (s.mem.wf = true → m.wf = true) := by
  obtain ⟨c, d, m0, b0, hb, hm0, hc⟩ : ∃ c d m b, (if qHas s s.cfg.cpuModBegin then beginMod s else s) =
      { s with modCycle := c, wDone := d, mem := m, bus := b } ∧ (s.mem.wf = true → m.wf = true) ∧
        c = if qHas s s.cfg.cpuModBegin then 0#32 else s.modCycle := by
    split
    · obtain ⟨m, b, h1, hm⟩ := beginMod_shape s
      exact ⟨_, _, m, b, h1, hm, rfl⟩
    · exact ⟨s.modCycle, s.wDone, s.mem, s.bus, rfl, id, rfl⟩
  simp only [execAWriteMod, hb, onNext_eq_next, Host.Outcome.next.injEq] at h
  obtain ⟨u, hu, rfl⟩ := h
  obtain ⟨m1, b1, rfl, hm1⟩ := segWrite_shape _ _ _ _ _ hu
  have hz : (s.qStage.hdr.size.zeroExtend 16).zeroExtend 32 = s.qStage.hdr.size.zeroExtend 32 := by
    apply BitVec.eq_of_toNat_eq
    simp
  simp only [cycle_mod, setCycle_mod, hz] at hm1 ⊢
  subst hc
  split
  · obtain ⟨m2, h2, hm2⟩ := segEnd_shape .mod
      { s with
        modCycle := (if qHas s s.cfg.cpuModBegin then 0#32 else s.modCycle) + s.qStage.hdr.size.zeroExtend 32
        wDone := true, draws := s.draws + 1, mem := m1, bus := b1 }
    exact ⟨m2, _, h2, fun h0 => hm2 (hm1 (hm0 h0))⟩
  · exact ⟨m1, b1, rfl, fun h0 => hm1 (hm0 h0)⟩

/-- A.POINT_STM, when it answers a next state: the counter advanced by the count, from 0 in a head frame (43_point_writer.md
rule R199). -/
theorem execAPointStm_shape (s t : State) (h : execAPointStm s = .next t) :
    ∃ m b, t =
        { s with
          stmCycle := (if qHas s s.cfg.cpuStmBegin then 0#32 else s.stmCycle) +
            (bodyWord s.qStage.body s.draws 0).zeroExtend 32
          wDone := true, draws := s.draws + 1, mem := m, bus := b } ∧
      (s.mem.wf = true → m.wf = true) := by
  obtain ⟨c, d, m0, b0, hb, hm0, hc⟩ : ∃ c d m b, (if qHas s s.cfg.cpuStmBegin then beginPoint s else s) =
      { s with stmCycle := c, wDone := d, mem := m, bus := b } ∧ (s.mem.wf = true → m.wf = true) ∧
        c = if qHas s s.cfg.cpuStmBegin then 0#32 else s.stmCycle := by
    split
    · obtain ⟨m, b, h1, hm⟩ := beginPoint_shape s
      exact ⟨_, _, m, b, h1, hm, rfl⟩
    · exact ⟨s.stmCycle, s.wDone, s.mem, s.bus, rfl, id, rfl⟩
  simp only [execAPointStm, hb, onNext_eq_next, Host.Outcome.next.injEq] at h
  obtain ⟨u, hu, rfl⟩ := h
  obtain ⟨m1, b1, rfl, hm1⟩ := segWrite_shape _ _ _ _ _ hu
  simp only [cycle_pstm, setCycle_pstm] at hm1 ⊢
  subst hc
  split
  · obtain ⟨m2, h2, hm2⟩ := segEnd_shape .pstm
      { s with
        stmCycle := (if qHas s s.cfg.cpuStmBegin then 0#32 else s.stmCycle) +
          (bodyWord s.qStage.body s.draws 0).zeroExtend 32
        wDone := true, draws := s.draws + 1, mem := m1, bus := b1 }
    exact ⟨m2, _, h2, fun h0 => hm2 (hm1 (hm0 h0))⟩
  · exact ⟨m1, b1, rfl, fun h0 => hm1 (hm0 h0)⟩

/-- A.GAIN_STM, when it answers a next state: a head frame clears the counter and takes the mode, a body frame advances it by
the passes made (44_gain_writer.md rule R216). -/
theorem execAGainStm_shape (s t : State) (h : execAGainStm s = .next t) :
    ∃ c g k ps m b, t =
        { s with
          stmCycle := c, gainMode := g, gainCount := k, gainPasses := ps
          wDone := true, draws := s.draws + 1, mem := m, bus := b } ∧
      (s.mem.wf = true → m.wf = true) ∧
      (qHas s s.cfg.cpuStmBegin = true → c = 0#32 ∧ g = bodyWord s.qStage.body s.draws 2 ∧ k = s.gainCount ∧
        ps = s.gainPasses) ∧
      (qHas s s.cfg.cpuStmBegin = false → g = s.gainMode ∧ ps = gainPassesOf (gainModeOf s.cfg s.gainMode) s ∧
        k = BitVec.ofNat 16 ps.length ∧ c = s.stmCycle + k.zeroExtend 32) := by
  rw [execAGainStm, onNext_eq_next] at h
  obtain ⟨u, hu, h⟩ := h
  rw [Host.Outcome.next.injEq] at h
  subst h
  obtain ⟨c, g, k, ps, m1, b1, rfl, hm1, hh⟩ : ∃ c g k ps m b, u =
      { s with
        stmCycle := c, gainMode := g, gainCount := k, gainPasses := ps
        wDone := true, draws := s.draws + 1, mem := m, bus := b } ∧
      (s.mem.wf = true → m.wf = true) ∧
      (qHas s s.cfg.cpuStmBegin = true → c = 0#32 ∧ g = bodyWord s.qStage.body s.draws 2 ∧ k = s.gainCount ∧
        ps = s.gainPasses) ∧
      (qHas s s.cfg.cpuStmBegin = false → g = s.gainMode ∧ ps = gainPassesOf (gainModeOf s.cfg s.gainMode) s ∧
        k = BitVec.ofNat 16 ps.length ∧ c = s.stmCycle + k.zeroExtend 32) := by
    cases hq : qHas s s.cfg.cpuStmBegin
    · rw [hq, if_neg (by simp), gainBody] at hu
      obtain ⟨m, b, h1, hm⟩ := segWriteGain_shape _ _ _ _ hu
      exact ⟨_, _, _, _, m, b, h1, hm, by simp, fun _ => ⟨rfl, rfl, rfl, rfl⟩⟩
    · rw [hq, if_pos rfl, Host.Outcome.next.injEq] at hu
      obtain ⟨m, b, h1, hm⟩ := beginGain_shape s
      rw [h1] at hu
      exact ⟨_, _, _, _, m, b, hu.symm, hm, fun _ => ⟨rfl, rfl, rfl, rfl⟩, by simp⟩
  split
  · obtain ⟨m2, h2, hm2⟩ := segEnd_shape .gstm
      { s with
        stmCycle := c, gainMode := g, gainCount := k, gainPasses := ps
        wDone := true, draws := s.draws + 1, mem := m1, bus := b1 }
    exact ⟨c, g, k, ps, m2, _, h2, fun h0 => hm2 (hm1 h0), hh⟩
  · exact ⟨c, g, k, ps, m1, b1, rfl, hm1, hh⟩

/-! ## The device writes of a running command -/

/-- A command that made the writes `ws` has them still to make (20_memory.md rules R67 and R80). -/
theorem postWrites_bramWrites (d : Domain) (ws : List (Loc × Word)) (s t u : State)
    (h : t = { u with mem := (bramWrites d ws s).mem, bus := (bramWrites d ws s).bus }) :
    postWrites d s t =
      match d with
      | .p => { u with mem := s.mem, bus := s.bus, pPending := ws }
      | .q => { u with mem := s.mem, bus := s.bus, qPending := ws } := by
  have hn : newWrites s t = ws := newWrites_eq d s t ws (by rw [h, bramWrites_bus])
  subst h
  cases d <;> simp only [postWrites, hn]

/-- The end of a turn changes `q_busy`, and puts off what the command did to the device. -/
theorem endTurn_shape (who : Agent) (i : Instr) (s t : State) :
    ∃ m b ps qs y, endTurn who i s t = { t with mem := m, bus := b, pPending := ps, qPending := qs, qBusy := y } ∧
      (s.mem.wf = true → t.mem.wf = true → m.wf = true) := by
  have post : ∀ d, ∃ m b ps qs, postWrites d s t = { t with mem := m, bus := b, pPending := ps, qPending := qs } ∧
      (s.mem.wf = true → t.mem.wf = true → m.wf = true) := by
    intro d
    cases d
    · exact ⟨_, _, _, _, rfl, fun h _ => h⟩
    · exact ⟨_, _, _, _, rfl, fun h _ => h⟩
  have tick : ∀ u : State, ∃ y, endOfTick u = { u with qBusy := y } := by
    intro u
    unfold endOfTick
    split
    · exact ⟨_, rfl⟩
    · exact ⟨_, rfl⟩
  cases who
  · simp only [endTurn]
    split_ifs
    · obtain ⟨m, b, ps, qs, h, hm⟩ := post .p
      exact ⟨m, b, ps, qs, t.qBusy, h, hm⟩
    · exact ⟨_, _, _, _, _, rfl, fun _ h => h⟩
  · simp only [endTurn]
    split_ifs
    · obtain ⟨m, b, ps, qs, h, hm⟩ := post .q
      obtain ⟨y, hy⟩ := tick (postWrites .q s t)
      exact ⟨m, b, ps, qs, y, by rw [hy, h], hm⟩
    · obtain ⟨y, hy⟩ := tick t
      exact ⟨_, _, _, _, y, hy, fun _ h => h⟩
  · exact ⟨_, _, _, _, _, rfl, fun _ h => h⟩
  · exact ⟨_, _, _, _, _, rfl, fun _ h => h⟩

/-! ## The step -/

/-- A step with a next state is a quiet turn, or runs an operation of the turn's agent and ends the turn, or is the
rendezvous of a SEG.RESET and a clear. -/
theorem step_next (s t : State) :
    step s = .next t ↔
      fetch s = .quiet t ∨ (∃ who i u v, fetch s = .run who i u ∧ exec i u = .next v ∧ t = endTurn who i u v) ∨
        ∃ c u, fetch s = .rendezvous c u ∧ exec c (segResetCounters u) = .next t := by
  unfold step
  cases h : fetch s with
  | quiet u => simp [eq_comm]
  | bad r => simp
  | run who i u =>
    simp only [onNext_eq_next, Host.Outcome.next.injEq, reduceCtorEq, Fetched.run.injEq, false_or]
    constructor
    · rintro ⟨v, hv, rfl⟩
      exact .inl ⟨who, i, u, v, ⟨rfl, rfl, rfl⟩, hv, rfl⟩
    · rintro (⟨_, _, _, v, ⟨rfl, rfl, rfl⟩, hv, rfl⟩ | ⟨_, _, h, _⟩)
      · exact ⟨v, hv, rfl⟩
      · exact h.elim
  | rendezvous c u =>
    simp only [reduceCtorEq, false_and, exists_false, false_or, Fetched.rendezvous.injEq]
    constructor
    · exact fun h => ⟨c, u, ⟨rfl, rfl⟩, h⟩
    · rintro ⟨_, _, ⟨rfl, rfl⟩, h⟩
      exact h

/-- No request at P's port is SEG.RESET. -/
theorem decodeRequest_p_ne_segReset (c : Params) (r : Request) : decodeRequest c .p r ≠ .ok .segReset := by
  intro h
  unfold decodeRequest at h
  split_ifs at h with ha
  cases r with
  | frame image =>
    simp only [decodeFrame] at h
    split_ifs at h
    split at h <;> cases h
  | pcmd w e =>
    simp only [decodePcmd] at h
    split_ifs at h
    split at h <;> cases h
  | tick => exact ha (by simp [Request.agent])
  | ccmd w => exact ha (by simp [Request.agent])
  | wcmd w src => exact ha (by simp [Request.agent])

/-- The clear that P makes next is left of its activity, or is MBX.CLR at its port; nothing else of the state differs. -/
theorem nextClear_some (s t : State) (c : Instr) (h : nextClear s = some (c, t)) :
    (c = .mbxClr ∨ c = .fClear) ∧
      ((∃ is, s.pTodo = c :: is ∧ t = { s with pTodo := is }) ∨
        s.pTodo = [] ∧ ∃ r rs, s.pIn = r :: rs ∧ decodeRequest s.cfg .p r = .ok c ∧ t = { s with pIn := rs }) := by
  have clear : ∀ i, isClear i = true → i = .mbxClr ∨ i = .fClear := fun i h => by simpa [isClear] using h
  unfold nextClear at h
  split at h
  · rename_i hd
    split_ifs at h with hc
    cases h
    exact ⟨clear _ hc, .inl ⟨_, hd, rfl⟩⟩
  · rename_i hd
    split at h
    · cases h
    · rename_i hr
      split at h
      · rename_i hdec
        split_ifs at h with hc
        cases h
        exact ⟨clear _ hc, .inr ⟨hd, _, _, hr, hdec, rfl⟩⟩
      · cases h

/-- The rendezvous is enabled when domain Q is between ticks, P has no device write left, and P's next operation is a
clear. -/
theorem rendezvous_some (s t : State) (c : Instr) (h : rendezvous s = some (c, t)) :
    s.qBusy = false ∧ s.pPending = [] ∧ nextClear s = some (c, t) := by
  unfold rendezvous at h
  split_ifs at h with hb
  rw [Bool.or_eq_true, not_or, Bool.not_eq_true, Bool.not_eq_true, Bool.not_eq_false', List.isEmpty_iff] at hb
  exact ⟨hb.1, hb.2, h⟩

/-- A request at a port is turned away, or is SEG.RESET in the rendezvous, or runs as the well-formed operation it decodes
to. -/
theorem offer_cases (who : Agent) (r : Request) (s : State) :
    (∃ e, offer who r s = .bad e) ∨
      (∃ c t, decodeRequest s.cfg who r = .ok .segReset ∧ rendezvous s = some (c, t) ∧
        offer who r s = .rendezvous c t) ∨
      ∃ i, decodeRequest s.cfg who r = .ok i ∧ i.wellFormed s.cfg = true ∧ i ≠ .segReset ∧
        offer who r s = .run who i s := by
  unfold offer
  cases decodeRequest s.cfg who r with
  | error e => exact .inl ⟨_, rfl⟩
  | ok i =>
    by_cases hw : i.wellFormed s.cfg = true
    · by_cases hr : i = .segReset
      · subst hr
        cases hz : rendezvous s with
        | none => exact .inl ⟨.outsideRendezvous, by simp [hw]⟩
        | some z => exact .inr (.inl ⟨z.1, z.2, rfl, rfl, by simp [hw]⟩)
      · refine .inr (.inr ⟨i, rfl, hw, hr, ?_⟩)
        simp only [hw, Bool.not_true, if_neg hr]
        rfl
    · exact .inl ⟨.illFormed, by simp [hw]⟩

/-- What a quiet turn leaves: it uses up the turn, it makes a device write of a running command, or it is the power-on
reset. -/
theorem fetch_quiet (s t : State) (h : fetch s = .quiet t) :
    (∃ ts, t = { s with sched := ts }) ∨ (∃ ts, t = powerOnReset { s with sched := ts }) ∨
      (∃ ts l v ws, s.pPending = (l, v) :: ws ∧ t = bramWrite .p l v { s with sched := ts, pPending := ws }) ∨
      ∃ ts l v ws, s.qPending = (l, v) :: ws ∧
        t = endOfTick (bramWrite .q l v { s with sched := ts, qPending := ws }) := by
  unfold fetch at h
  split at h
  · cases h
    exact .inl ⟨s.sched, rfl⟩
  · unfold fetchP at h
    split at h
    · rename_i hd
      cases h
      exact .inr (.inr (.inl ⟨_, _, _, _, hd, rfl⟩))
    · split at h
      · cases h
      · split at h
        · cases h
          exact .inl ⟨_, rfl⟩
        · rename_i r rs _
          obtain ⟨e, he⟩ | ⟨_, _, -, -, he⟩ | ⟨i, -, -, -, he⟩ := offer_cases .p r { s with sched := _, pIn := rs }
          all_goals
            rw [he] at h
            cases h
  · unfold fetchQ at h
    split at h
    · rename_i hd
      cases h
      exact .inr (.inr (.inr ⟨_, _, _, _, hd, rfl⟩))
    · split at h
      · cases h
      · split at h
        · cases h
          exact .inl ⟨_, rfl⟩
        · rename_i r rs _
          obtain ⟨e, he⟩ | ⟨_, _, -, -, he⟩ | ⟨i, -, -, -, he⟩ := offer_cases .q r { s with sched := _, qIn := rs }
          all_goals
            rw [he] at h
            cases h
  · cases h
  · cases h
  · unfold fetchEmit at h
    split at h
    · cases h
      exact .inl ⟨_, rfl⟩
    · cases h
  · unfold fetchReset at h
    split at h
    · cases h
      exact .inr (.inl ⟨_, rfl⟩)
    · split at h
      · cases h
      · cases h
        exact .inl ⟨_, rfl⟩

/-- What a turn that runs an operation takes from the state, no device write of the agent's being due: the next operation
left to P or to Q, a request at P's or Q's port that decodes to a well-formed operation, a synchroniser's step, or a due
ACK.EMIT. -/
theorem fetch_run (s u : State) (who : Agent) (i : Instr) (h : fetch s = .run who i u) :
    (who = .p ∧ s.pPending = [] ∧ ∃ is ts, s.pTodo = i :: is ∧ u = { s with sched := ts, pTodo := is }) ∨
    (who = .q ∧ s.qPending = [] ∧ ∃ is ts, s.qTodo = i :: is ∧ u = { s with sched := ts, qTodo := is }) ∨
    (who = .p ∧ s.pPending = [] ∧ s.pTodo = [] ∧ ∃ r rs ts, decodeRequest s.cfg .p r = .ok i ∧
      i.wellFormed s.cfg = true ∧ u = { s with sched := ts, pIn := rs }) ∨
    (who = .q ∧ s.qPending = [] ∧ s.qTodo = [] ∧ i ≠ .segReset ∧
      ∃ r rs ts, decodeRequest s.cfg .q r = .ok i ∧ i.wellFormed s.cfg = true ∧ u = { s with sched := ts, qIn := rs }) ∨
    (who = .sw ∧ ∃ k ts, i = .sw k ∧ u = { s with sched := ts }) ∨
    (who = .sr ∧ ∃ k ts, i = .sr k ∧ u = { s with sched := ts }) ∨
    (who = .p ∧ i = .ackEmit ∧ ∃ k ts, u = { s with sched := ts, emitDue := k }) := by
  unfold fetch at h
  split at h
  · cases h
  · unfold fetchP at h
    split at h
    · cases h
    · rename_i hp
      split at h
      · rename_i hd
        cases h
        exact .inl ⟨rfl, hp, _, _, hd, rfl⟩
      · rename_i hd
        split at h
        · cases h
        · rename_i r rs _
          obtain ⟨e, he⟩ | ⟨_, _, -, -, he⟩ | ⟨j, hdec, hw, -, hj⟩ := offer_cases .p r { s with sched := _, pIn := rs }
          · rw [he] at h
            cases h
          · rw [he] at h
            cases h
          · rw [hj] at h
            cases h
            exact .inr (.inr (.inl ⟨rfl, hp, hd, _, _, _, hdec, hw, rfl⟩))
  · unfold fetchQ at h
    split at h
    · cases h
    · rename_i hp
      split at h
      · rename_i hd
        cases h
        exact .inr (.inl ⟨rfl, hp, _, _, hd, rfl⟩)
      · rename_i hd
        split at h
        · cases h
        · rename_i r rs _
          obtain ⟨e, he⟩ | ⟨_, _, -, -, he⟩ | ⟨j, hdec, hw, hr, hj⟩ := offer_cases .q r { s with sched := _, qIn := rs }
          · rw [he] at h
            cases h
          · rw [he] at h
            cases h
          · rw [hj] at h
            cases h
            exact .inr (.inr (.inr (.inl ⟨rfl, hp, hd, hr, _, _, _, hdec, hw, rfl⟩)))
  · cases h
    exact .inr (.inr (.inr (.inr (.inl ⟨rfl, _, _, rfl, rfl⟩))))
  · cases h
    exact .inr (.inr (.inr (.inr (.inr (.inl ⟨rfl, _, _, rfl, rfl⟩)))))
  · unfold fetchEmit at h
    split at h
    · cases h
    · cases h
      exact .inr (.inr (.inr (.inr (.inr (.inr ⟨rfl, rfl, _, _, rfl⟩)))))
  · unfold fetchReset at h
    split at h
    · cases h
    · split at h <;> cases h

/-- What a turn that is the rendezvous takes from the state: domain Q idle between ticks with SEG.RESET at its port, and P's
next operation the clear. -/
theorem fetch_rendezvous (s u : State) (c : Instr) (h : fetch s = .rendezvous c u) :
    (c = .mbxClr ∨ c = .fClear) ∧ s.qBusy = false ∧ s.pPending = [] ∧ s.qPending = [] ∧ s.qTodo = [] ∧
      ∃ ts r rs, s.sched = .q :: ts ∧ s.qIn = r :: rs ∧ decodeRequest s.cfg .q r = .ok .segReset ∧
        ((∃ is, s.pTodo = c :: is ∧ u = { s with sched := ts, qIn := rs, pTodo := is }) ∨
          s.pTodo = [] ∧ ∃ r' rs', s.pIn = r' :: rs' ∧ decodeRequest s.cfg .p r' = .ok c ∧
            u = { s with sched := ts, qIn := rs, pIn := rs' }) := by
  unfold fetch at h
  split at h
  · cases h
  · unfold fetchP at h
    split at h
    · cases h
    · split at h
      · cases h
      · split at h
        · cases h
        · rename_i r rs _
          obtain ⟨e, he⟩ | ⟨_, _, hd, -⟩ | ⟨i, -, -, -, he⟩ := offer_cases .p r { s with sched := _, pIn := rs }
          · rw [he] at h
            cases h
          · exact absurd hd (decodeRequest_p_ne_segReset _ r)
          · rw [he] at h
            cases h
  · rename_i hs
    unfold fetchQ at h
    split at h
    · cases h
    · rename_i hp
      split at h
      · cases h
      · rename_i hd
        split at h
        · cases h
        · rename_i r rs hq
          obtain ⟨e, he⟩ | ⟨c', t, hdec, hz, he⟩ | ⟨i, -, -, -, he⟩ :=
            offer_cases .q r { s with sched := _, qIn := rs }
          · rw [he] at h
            cases h
          · rw [he] at h
            cases h
            obtain ⟨hb, hpp, hc⟩ := rendezvous_some _ _ _ hz
            obtain ⟨hk, hshape⟩ := nextClear_some _ _ _ hc
            exact ⟨hk, hb, hpp, hp, hd, _, r, rs, hs, hq, hdec, hshape⟩
          · rw [he] at h
            cases h
  · cases h
  · cases h
  · unfold fetchEmit at h
    split at h <;> cases h
  · unfold fetchReset at h
    split at h
    · cases h
    · split at h <;> cases h

/-- The rendezvous completes, its two operations in one step: the counters of SEG.RESET, then the clear. -/
theorem step_rendezvous (s u : State) (c : Instr) (h : fetch s = .rendezvous c u) :
    step s = .next
      (if c = .mbxClr then clearMailbox (segResetCounters u) else globalClear (segResetCounters u)) := by
  obtain ⟨hc, hb, -, -, -, _, _, _, -, -, -, hu⟩ := fetch_rendezvous s u c h
  have hq : u.qBusy = false := by
    obtain ⟨_, -, rfl⟩ | ⟨-, _, _, -, -, rfl⟩ := hu <;> exact hb
  have hr : (segResetCounters u).qBusy = false := hq
  unfold step
  rw [h]
  obtain rfl | rfl := hc
  · simp [onNext, exec, execSegReset, execMbxClr, hr]
  · simp [onNext, exec, execSegReset, execFClear, hr]

end Sys2Proof.Machine
end

