-- ==== Sys2Proof/Laws/PerInstr.lean ====
section
/-! SUPPORT. Statements made for each operation, one lemma for each constructor of Instr: the port on which an operation is
requested exists in the domain of the agent that may issue it (10_state.md rule R42, 60_exceptions.md rule R280). -/

namespace Sys2Proof.Laws.PortAgent

/-- The request that selects the operation, where a port selects it, is on a port of the operation's own agent. -/
def Statement (i : Instr) : Prop := ∀ r, encode i = some r → r.agent = i.agent

theorem pNop : Statement .pNop := fun _ h => by cases h; rfl
theorem mbxPush (e : Entry) : Statement (.mbxPush e) := fun _ h => by cases h; rfl
theorem mbxClr : Statement .mbxClr := fun _ h => by cases h; rfl
theorem cNop : Statement .cNop := fun _ h => by cases h; rfl
theorem mbxPop : Statement .mbxPop := fun _ h => by cases h; rfl
theorem sw (k : Option Cursor) : Statement (.sw k) := nofun
theorem sr (k : Option Cursor) : Statement (.sr k) := nofun
theorem enq : Statement .enq := nofun
theorem wNop : Statement .wNop := fun _ h => by cases h; rfl
theorem segBeginMod : Statement .segBeginMod := fun _ h => by cases h; rfl
theorem segWriteMod (n : BitVec 16) (src : List Word) : Statement (.segWriteMod n src) := fun _ h => by cases h; rfl
theorem segEndMod : Statement .segEndMod := fun _ h => by cases h; rfl
theorem segBeginPstm : Statement .segBeginPstm := fun _ h => by cases h; rfl
theorem segWritePstm (n : BitVec 16) (src : List Word) : Statement (.segWritePstm n src) := fun _ h => by cases h; rfl
theorem segEndPstm : Statement .segEndPstm := fun _ h => by cases h; rfl
theorem segBeginGstm : Statement .segBeginGstm := fun _ h => by cases h; rfl
theorem segWriteGstm (m : BitVec 16) (passes : List Pass) : Statement (.segWriteGstm m passes) := fun _ h => by cases h; rfl
theorem segEndGstm : Statement .segEndGstm := fun _ h => by cases h; rfl
theorem segReset : Statement .segReset := fun _ h => by cases h; rfl
theorem arrive (e : Entry) : Statement (.arrive e) := fun _ h => by cases h; rfl
theorem fDuplicate : Statement .fDuplicate := nofun
theorem fClear : Statement .fClear := nofun
theorem fRdCpuVersion : Statement .fRdCpuVersion := nofun
theorem fRdFpgaVersion : Statement .fRdFpgaVersion := nofun
theorem fRdFpgaFunction : Statement .fRdFpgaFunction := nofun
theorem fReserved (i : BitVec 4) : Statement (.fReserved i) := nofun
theorem fSynchronize : Statement .fSynchronize := nofun
theorem fEnqueue : Statement .fEnqueue := nofun
theorem ackUpdate : Statement .ackUpdate := nofun
theorem ackEmit : Statement .ackEmit := nofun
theorem tick : Statement .tick := fun _ h => by cases h; rfl
theorem aWriteMod : Statement .aWriteMod := nofun
theorem aConfigSilencer : Statement .aConfigSilencer := nofun
theorem aHeaderOnly : Statement .aHeaderOnly := nofun
theorem aModDelay : Statement .aModDelay := nofun
theorem aDrive : Statement .aDrive := nofun
theorem aPointStm : Statement .aPointStm := nofun
theorem aGainStm : Statement .aGainStm := nofun
theorem gPhaseDutyFull : Statement .gPhaseDutyFull := nofun
theorem gPhaseFull : Statement .gPhaseFull := nofun
theorem gPhaseHalf : Statement .gPhaseHalf := nofun

end Sys2Proof.Laws.PortAgent
end

