-- ==== Sys2Proof/Tests/Slice0.lean ====
section
/-! SUPPORT. The model's own tests: ill-formed terms are refused, words written out from the encodings of 30_encoding.md
decode, single operations give the vectors of 95_test_vectors.md (named V-… as there), and each statement's hypotheses
are met by a state written here. -/

namespace Sys2Proof.Tests

open Sys2Proof Sys2Proof.Machine

set_option Elab.async false

/-! ## Constants -/

/-- 00_scope.md rule R4: each value as the table prints it, and the derivations the table gives. -/
theorem test_constants :
    [Config.slots, Config.usable, Config.curBits, Config.kMod, Config.kPstm, Config.kGstm, Config.modSamplesPerWord,
      Config.pstmWords, Config.pstmStride, Config.pstmHeadWords, Config.gstmSlotWords, Config.cycleBits,
      Config.modHeadBytes, Config.modBodyBytes, Config.windowWords] =
      [32, 31, 5, 15, 11, 5, 2, 4, 8, 5, 512, 32, 120, 124, 16384] ∧
    Config.usable = Config.slots - 1 ∧ 2 ^ Config.curBits = Config.slots ∧ 2 ^ Config.slotBits = Config.gstmSlotWords ∧
    2 ^ Config.windowBits = Config.windowWords ∧ Config.windowWords * Config.modSamplesPerWord = 2 ^ Config.kMod ∧
    Config.windowWords = 2 ^ Config.kPstm * Config.pstmStride ∧
    Config.windowWords = 2 ^ Config.kGstm * Config.gstmSlotWords := by decide

/-! ## Ill-formed terms -/

theorem test_illformed_push_body_too_short :
    (Instr.mbxPush { hdr := idHeader 1#8, body := [1#16, 2#16] }).wellFormed Config.illustration = false := by decide

theorem test_illformed_frame_body_too_long :
    (Instr.arrive { hdr := idHeader 1#8, body := List.replicate 6 0#16 }).wellFormed Config.illustration = false := by
  decide +kernel

theorem test_illformed_mod_words_do_not_match_count :
    (Instr.segWriteMod 3#16 [0x2211#16]).wellFormed Config.illustration = false := by decide

theorem test_illformed_point_words_do_not_match_count :
    (Instr.segWritePstm 1#16 [1#16, 2#16, 3#16]).wellFormed Config.illustration = false := by decide

theorem test_illformed_passes_do_not_match_count :
    (Instr.segWriteGstm 2#16 [[(0#9, 1#16)]]).wellFormed Config.illustration = false := by decide

theorem test_illformed_pass_not_ascending :
    (Instr.segWriteGstm 1#16 [[(1#9, 1#16), (1#9, 2#16)]]).wellFormed Config.illustration = false := by decide

theorem test_illformed_reserved_id_zero : (Instr.fReserved 0#4).wellFormed Config.illustration = false := by decide

/-! ## Words written out from 30_encoding.md rules R91, R100 to R102 -/

/-- Rule R100: `pop` in bits 1:0, bits 7:2 zero (V-MBX-13 for the refused ones). -/
theorem test_decode_pcmd :
    decodePcmd 0b00000000#8 default = .ok .pNop ∧ decodePcmd 0b00000001#8 (zeroEntry Config.illustration) =
      .ok (.mbxPush (zeroEntry Config.illustration)) ∧ decodePcmd 0b00000010#8 default = .ok .mbxClr ∧
    decodePcmd 0b00000011#8 default = .error .pcmdReserved ∧ decodePcmd 0b00000101#8 default = .error .pcmdZeroBit := by
  decide +kernel

/-- Rule R101: `cop` in bit 0, bits 7:1 zero. -/
theorem test_decode_ccmd :
    decodeCcmd 0b00000000#8 = .ok .cNop ∧ decodeCcmd 0b00000001#8 = .ok .mbxPop ∧
    decodeCcmd 0b00000010#8 = .error .ccmdZeroBit := by decide

/-- Rule R102, channel MOD: `n` = 3 in bits 23:8, `ch` = 00, `wop` in bits 2:0. -/
theorem test_decode_wcmd_mod :
    decodeWcmd 0x00000000#32 (.words []) = .ok .wNop ∧ decodeWcmd 0x00000001#32 (.words []) = .ok .segBeginMod ∧
    decodeWcmd 0b00000000_0000000000000011_000_00_010#32 (.words [0x2211#16, 0x4433#16]) =
      .ok (.segWriteMod 3#16 [0x2211#16, 0x4433#16]) ∧
    decodeWcmd 0x00000003#32 (.words []) = .ok .segEndMod ∧ decodeWcmd 0x00000004#32 (.words []) = .ok .segReset := by
  decide

/-- Rule R102, channel PSTM: `ch` = 01. -/
theorem test_decode_wcmd_pstm :
    decodeWcmd 0x00000009#32 (.words []) = .ok .segBeginPstm ∧
    decodeWcmd 0b00000000_0000000000000001_000_01_010#32 (.words [1#16, 2#16, 3#16, 4#16]) =
      .ok (.segWritePstm 1#16 [1#16, 2#16, 3#16, 4#16]) ∧
    decodeWcmd 0x0000000B#32 (.words []) = .ok .segEndPstm := by decide

/-- Rule R102, channel GSTM: `ch` = 10. -/
theorem test_decode_wcmd_gstm :
    decodeWcmd 0x00000011#32 (.words []) = .ok .segBeginGstm ∧
    decodeWcmd 0b00000000_0000000000000001_000_10_010#32 (.passes [[(0#9, 0x1111#16)]]) =
      .ok (.segWriteGstm 1#16 [[(0#9, 0x1111#16)]]) ∧
    decodeWcmd 0x00000013#32 (.words []) = .ok .segEndGstm := by decide

/-- V-SEG-15, and an operand of the wrong kind. -/
theorem test_decode_wcmd_refused :
    decodeWcmd 0x00000005#32 (.words []) = .error .wcmdReservedOp ∧
    decodeWcmd 0x0000001A#32 (.words []) = .error .wcmdReservedChannel ∧
    decodeWcmd 0x00000101#32 (.words []) = .error .wcmdMustBeZero ∧
    decodeWcmd 0x0000000C#32 (.words []) = .error .wcmdMustBeZero ∧
    decodeWcmd 0x01000002#32 (.words []) = .error .wcmdZeroBit ∧
    decodeWcmd 0x00000022#32 (.words []) = .error .wcmdZeroBit ∧
    decodeWcmd 0x00000112#32 (.words []) = .error .operandKind := by decide

/-- A Header from its fields, the payload filled up with zeros. -/
def header (id f c sz : Byte) (p : List Byte) : Header :=
  ((parseHeader (id :: f :: c :: sz :: (p ++ List.replicate (124 - p.length) 0#8))).map Prod.fst).getD (idHeader id)

/-- Rules R91 and R92: a frame image, byte for byte (`N` = 5), decodes to the fields in their places. -/
theorem test_decode_frame_image :
    decodeRequest Config.illustration .p
        (.frame ([0x08#8, 0x04#8, 0x03#8, 0x02#8] ++ [0xE8#8, 0x03#8] ++ List.replicate 121 0#8 ++ [0x7F#8] ++
          [0x01#8, 0x02#8, 0x03#8, 0x04#8, 0x05#8, 0x06#8, 0x07#8, 0x08#8, 0x09#8, 0x0A#8])) =
      .ok (.arrive
        { hdr := header 0x08#8 0x04#8 0x03#8 0x02#8 ([0xE8#8, 0x03#8] ++ List.replicate 121 0#8 ++ [0x7F#8])
          body := [0x0201#16, 0x0403#16, 0x0605#16, 0x0807#16, 0x0A09#16] }) := by decide +kernel

/-- A frame image of another length is no frame (rules R92 and R108). -/
theorem test_decode_frame_length :
    decodeRequest Config.illustration .p (.frame (List.replicate 137 0#8)) = .error .frameLength := by decide +kernel

theorem test_decode_tick : decodeRequest Config.illustration .q .tick = .ok .tick := by decide

/-- Rule R103, every row: the flags are those of Config.illustration. -/
theorem test_message_ids :
    dispatch Config.illustration 0x10#8 (header 0x10#8 0#8 0#8 0#8 []) = .fDuplicate ∧
    dispatch Config.illustration 0x10#8 (header 0x00#8 0#8 0#8 0#8 []) = .fClear ∧
    dispatch Config.illustration 0x10#8 (header 0x01#8 0#8 0#8 0#8 []) = .fRdCpuVersion ∧
    dispatch Config.illustration 0x10#8 (header 0x02#8 0#8 0#8 0#8 []) = .fEnqueue ∧
    dispatch Config.illustration 0x10#8 (header 0x03#8 0#8 0#8 0#8 []) = .fRdFpgaVersion ∧
    dispatch Config.illustration 0x10#8 (header 0x04#8 0#8 0#8 0#8 []) = .fRdFpgaFunction ∧
    dispatch Config.illustration 0x10#8 (header 0xF0#8 0#8 0x01#8 0#8 []) = .fEnqueue ∧
    dispatch Config.illustration 0x10#8 (header 0xF1#8 0#8 0#8 0#8 []) = .fReserved 1#4 ∧
    dispatch Config.illustration 0x10#8 (header 0xFF#8 0#8 0#8 0#8 []) = .fReserved 15#4 ∧
    dispatch Config.illustration 0x10#8 (header 0x20#8 0#8 0x40#8 0#8 []) = .fSynchronize ∧
    dispatch Config.illustration 0x10#8 (header 0x20#8 0#8 0xC0#8 0#8 []) = .fEnqueue := by decide +kernel

/-- Rule R104 and vectors V-TK-2 to V-TK-9: the commands the flags select. -/
theorem test_flags :
    applyCommands Config.illustration (header 5#8 0#8 0#8 0#8 []) = [.aHeaderOnly] ∧
    applyCommands Config.illustration (header 5#8 0x02#8 0x20#8 0#8 []) = [.aConfigSilencer, .aHeaderOnly] ∧
    applyCommands Config.illustration (header 5#8 0#8 0xA0#8 0#8 []) = [.aWriteMod, .aHeaderOnly] ∧
    applyCommands Config.illustration (header 5#8 0x0C#8 0x11#8 0#8 []) = [.aModDelay] ∧
    applyCommands Config.illustration (header 5#8 0#8 0x03#8 0#8 []) = [.aDrive] ∧
    applyCommands Config.illustration (header 5#8 0x04#8 0x03#8 0#8 []) = [.aPointStm] ∧
    applyCommands Config.illustration (header 5#8 0x0E#8 0x01#8 0#8 []) = [.aGainStm] ∧
    applyCommands Config.illustration (header 5#8 0#8 0xC1#8 0#8 []) = [.aWriteMod, .aDrive] := by decide +kernel

/-- Rule R107: the gain-data mode, an unrecognised value included. -/
theorem test_gain_modes :
    gainModeOf Config.illustration 0x0010#16 = .pdf ∧ gainModeOf Config.illustration 0x0020#16 = .pf ∧
    gainModeOf Config.illustration 0x0030#16 = .ph ∧ gainModeOf Config.illustration 0xABCD#16 = .pdf := by decide

/-- Words of the opcode table, as the host numbers them. -/
theorem test_table_words :
    decodeTableWord 8 0x02 = some .mbxClr ∧ decodeTableWord 8 0x03 = some .fRdFpgaVersion ∧
    decodeTableWord 8 0x04 = some .fRdFpgaFunction ∧ decodeTableWord 8 0xF1 = some (.fReserved 1#4) ∧
    decodeTableWord 32 0x00000011 = some .segBeginGstm ∧ decodeTableWord 32 0x00000005 = none := by decide +kernel

/-! ## Single operations -/

/-- A field of the state an operation leaves. -/
def after {α : Type} (i : Instr) (s : State) (f : State → α) : Option α :=
  match exec i s with
  | .next t => some (f t)
  | .fault _ => none
  | .refused _ => none

/-- The entries of the tests. -/
def entry (id f c sz : Byte) (p : List Byte) (b : List Word) : Entry := { hdr := header id f c sz p, body := b }

/-- An entry. -/
def e0 : Entry := entry 0x08#8 0#8 0x01#8 0#8 [] [1#16, 2#16, 3#16, 4#16, 5#16]

/-- A state in which domain Q works on an entry. -/
def applying (e : Entry) : State := { State.reset with qStage := e, qBusy := true }

/-- A state in which domain P works on an entry. -/
def arrived (e : Entry) : State := { State.reset with pStage := e, prevId := e.hdr.messageId }

/-- 31 entries held (V-MBX-6). -/
def fullBox : State := { State.reset with wrBin := 31#5, wrGray := 0x10#5, wrGrayQ := 0x10#5 }

/-- One entry held, and seen by domain Q. -/
def oneHeld : State :=
  { State.reset with slots := State.reset.slots.set 0 e0, wrBin := 1#5, wrGray := 0x01#5, wrGrayQ := 0x01#5 }

/-- The modulation counter at a value, its register agreeing. -/
def modAt (c : Count) : State := writeBase .mod c { State.reset with modCycle := c }

/-- The streaming counter at a value, the register agreeing for channel PSTM. -/
def pstmAt (c : Count) : State := writeBase .pstm c { State.reset with stmCycle := c }

/-- The streaming counter at a value, the register agreeing for channel GSTM. -/
def gstmAt (c : Count) : State := writeBase .gstm c { State.reset with stmCycle := c }

theorem test_pNop_vmbx12 : after .pNop oneHeld id = some oneHeld := by decide +kernel

theorem test_cNop_vmbx12 : after .cNop oneHeld id = some oneHeld := by decide +kernel

theorem test_push_vmbx1 :
    after (.mbxPush e0) State.reset (fun t => (t.pOk, t.slots[0], t.wrBin, t.wrGray)) =
      some (true, e0, 1#5, 0x01#5) := by decide +kernel

theorem test_push_full_vmbx6 :
    after (.mbxPush e0) fullBox id = some { fullBox with pOk := false } := by decide +kernel

theorem test_pop_empty_vmbx2 : after .mbxPop State.reset id = some { State.reset with qEntry := none } := by
  decide +kernel

theorem test_pop_vmbx4 :
    after .mbxPop oneHeld (fun t => (t.qEntry, t.rdBin, t.rdGray, t.slots[0])) =
      some (some e0, 1#5, 0x01#5, e0) := by decide +kernel

theorem test_sw_vmbx8 :
    after (.sw (some 6#5)) { State.reset with wrBin := 7#5, wrGray := 0x04#5, wrGrayQ := 0x06#5 }
      (fun t => t.wrGrayQ) = some 0x05#5 := by decide +kernel

theorem test_sr_vmbx9 :
    after (.sr (some 1#5)) { State.reset with rdBin := 2#5, rdGray := 0x03#5, rdGrayP := 0x11#5 }
      (fun t => t.rdGrayP) = some 0x01#5 := by decide +kernel

theorem test_clear_vmbx10 :
    after .mbxClr oneHeld (fun t => (t.wrBin, t.rdBin, t.wrGrayQ, t.slots[0].body, emptyQ t)) =
      some (0#5, 0#5, 0#5, [0#16, 0#16, 0#16, 0#16, 0#16], true) := by decide +kernel

theorem test_clear_waits_vmbx11 :
    after .mbxClr { oneHeld with qBusy := true } (fun t => (t.wrBin, t.pTodo)) = some (1#5, [.mbxClr]) := by
  decide +kernel

/-- V-MBX-14: `RETRY_LIMIT` = 3, the third failed attempt. -/
theorem test_enq_overflow_vmbx14 :
    (exec .enq { fullBox with cfg := { Config.illustration with retryLimit := some 3 }, pTries := 2 } matches
      .fault (.mailboxOverflow 31 0)) = true := by decide +kernel

theorem test_enq_succeeds :
    after .enq { arrived e0 with pTries := 2 } (fun t => (t.slots[0], t.wrBin, t.pTries, t.pTodo)) =
      some (e0, 1#5, 0, []) := by decide +kernel

theorem test_wNop_vseg14 : after .wNop (modAt 7#32) id = some (modAt 7#32) := by decide +kernel

theorem test_segBeginMod_vmod2 :
    after .segBeginMod (modAt 0x10000#32) (fun t => (t.modCycle, t.modBase)) = some (0#32, 0#16) := by decide +kernel

theorem test_segWriteMod_straddle_vmod7 :
    after (.segWriteMod 8#16 [0x1110#16, 0x1312#16, 0x1514#16, 0x1716#16]) (modAt 32764#32)
      (fun t => (t.modCycle, t.modBase, t.mem.readWord (2 * deviceWord .mod 32766 0),
        t.mem.readWord (2 * deviceWord .mod 32768 0), t.mem.readWord (2 * deviceWord .mod 32770 0))) =
      some (32772#32, 1#16, 0x1312#16, 0x1514#16, 0x1716#16) := by decide +kernel

theorem test_segWriteMod_odd_vmod5 :
    (exec (.segWriteMod 2#16 [0#16]) (modAt 7#32) matches .fault (.modOddOffset 7 2)) = true := by decide +kernel

theorem test_segEndMod_vend7 :
    after .segEndMod (modAt 65537#32) (fun t => (t.modCycle, t.ctrlReg 0x0011#16)) = some (65537#32, 0#16) := by
  decide +kernel

theorem test_segBeginPstm_vseg1 :
    after .segBeginPstm (pstmAt 4100#32) (fun t => (t.stmCycle, t.stmBase)) = some (0#32, 0#16) := by decide +kernel

/-- V-SEG-4, second write: the base is moved at the start of a write that begins on a boundary. -/
theorem test_segWritePstm_lazy_vseg4 :
    after (.segWritePstm 1#16 [1#16, 2#16, 3#16, 4#16])
      { State.reset with stmCycle := 2048#32 }
      (fun t => (t.stmCycle, t.stmBase, t.mem.readWord (2 * deviceWord .pstm 2048 3), t.bus.length)) =
      some (2049#32, 1#16, 4#16, 5) := by decide +kernel

theorem test_segWritePstm_straddle_vseg12 :
    after (.segWritePstm 2#16 [1#16, 2#16, 3#16, 4#16, 5#16, 6#16, 7#16, 8#16])
      { State.reset with stmCycle := 0xFFFFFFFF#32 }
      (fun t => (t.stmCycle, t.stmBase, t.mem.readWord (2 * deviceWord .pstm 2047 0),
        t.mem.readWord (2 * deviceWord .pstm 0 0))) =
      some (1#32, 0#16, 1#16, 5#16) := by decide +kernel

theorem test_segEndPstm_vend4 : after .segEndPstm (pstmAt 4#32) (fun t => t.ctrlReg 0x0021#16) = some 3#16 := by
  decide +kernel

theorem test_segBeginGstm_vgs1 :
    after .segBeginGstm (gstmAt 40#32) (fun t => (t.stmCycle, t.stmBase)) = some (0#32, 0#16) := by decide +kernel

theorem test_segWriteGstm_vgs2 :
    after (.segWriteGstm 1#16 [[(0#9, 0x1111#16), (1#9, 0x2222#16)]]) (gstmAt 31#32)
      (fun t => (t.stmCycle, t.stmBase, t.mem.readWord (2 * deviceWord .gstm 31 0),
        t.mem.readWord (2 * deviceWord .gstm 31 1))) =
      some (32#32, 1#16, 0x1111#16, 0x2222#16) := by decide +kernel

/-- V-GS-5: the later passes wrap inside the window, and no base write is made. -/
theorem test_segWriteGstm_wraps_vgs5 :
    after (.segWriteGstm 4#16 [[(0#9, 1#16)], [(0#9, 2#16)], [(0#9, 3#16)], [(0#9, 4#16)]]) (gstmAt 30#32)
      (fun t => (t.stmCycle, t.stmBase, t.mem.readWord (2 * deviceWord .gstm 30 0),
        t.mem.readWord (2 * deviceWord .gstm 0 0), t.mem.readWord (2 * deviceWord .gstm 1 0))) =
      some (34#32, 0#16, 1#16, 3#16, 4#16) := by decide +kernel

theorem test_segEndGstm_vgs11 : after .segEndGstm (gstmAt 8#32) (fun t => t.ctrlReg 0x0021#16) = some 7#16 := by
  decide +kernel

theorem test_segReset_vseg13 :
    after .segReset { State.reset with modCycle := 500#32, stmCycle := 77#32 }
      (fun t => (t.modCycle, t.stmCycle, t.bus)) = some (2#32, 0#32, []) := by decide +kernel

theorem test_arrive_vdsp11 :
    after (.arrive (entry 0x21#8 0x10#8 0#8 0#8 [] [0#16, 0#16, 0#16, 0#16, 0#16])) { State.reset with prevId := 0x10#8 }
      (fun t => (t.prevId, t.readsInfo, t.pTodo)) = some (0x21#8, true, [.fEnqueue, .ackUpdate]) := by decide +kernel

theorem test_arrive_duplicate_vdsp9 :
    after (.arrive (entry 0x10#8 0x10#8 0#8 0#8 [] [0#16, 0#16, 0#16, 0#16, 0#16])) { State.reset with prevId := 0x10#8 }
      (fun t => (t.prevId, t.readsInfo, t.pTodo)) = some (0x10#8, false, [.fDuplicate, .ackUpdate]) := by decide +kernel

theorem test_fDuplicate : after .fDuplicate oneHeld id = some oneHeld := by decide +kernel

/-- A state that every part of the global clear changes. -/
def beforeClear : State :=
  { oneHeld with
    modCycle := 40000#32, stmCycle := 77#32, readsInfo := true, ack := 0x1705#16, gainMode := 0x30#16 }

theorem test_fClear_registers_vclr1 :
    after .fClear beforeClear (fun t => (t.modCycle, t.stmCycle, t.readsInfo, t.ack, t.gainMode, emptyQ t)) =
      some (2#32, 0#32, false, 0#16, 0x30#16, true) := by decide +kernel

/-- V-CLR-1: the device writes, the oldest first: six, then the ten words of the drive table. -/
theorem test_fClear_writes_vclr1 :
    after .fClear beforeClear (fun t => (t.bus.length, t.bus.reverse.take 6)) =
      some (16,
        [.write .p (.ctrl 0x0000#16) 0x0002#16, .write .p (.ctrl 0x0030#16) 0x0007#16,
          .write .p (.ctrl 0x0031#16) 0x0700#16, .write .p (.ctrl 0x0010#16) 0#16,
          .write .p (.ctrl 0x0020#16) 0#16, .write .p (.modt 0#14) 0#16]) := by decide +kernel

theorem test_fRdCpuVersion_vdsp2 : after .fRdCpuVersion State.reset (fun t => t.pReply) = some (some 0x005A#16) := by
  decide +kernel

theorem test_fRdFpgaVersion_vdsp3 :
    after .fRdFpgaVersion { State.reset with answers := [0x8A12#16] } (fun t => (t.pReply, t.answers)) =
      some (some 0x0012#16, []) := by decide +kernel

theorem test_fRdFpgaFunction_vdsp4 :
    after .fRdFpgaFunction { State.reset with answers := [0x8A12#16] } (fun t => t.pReply) = some (some 0x008A#16) := by
  decide +kernel

theorem test_fReserved_vdsp7 : after (.fReserved 5#4) oneHeld id = some oneHeld := by decide +kernel

/-- The timestamp's words are open (rule R254): the first and the last request are not. -/
theorem test_fSynchronize_vdsp8 :
    after .fSynchronize (arrived (entry 0x20#8 0x02#8 0x40#8 0#8 [] [4096#16, 4096#16, 1#16, 2#16, 3#16]))
      (fun t => (t.cycleTab, t.bus.head?, t.bus.getLast?, t.bus.length)) =
      some ([4096#16, 4096#16, 1#16, 2#16, 3#16], some (.write .p (.ctrl 0x0000#16) 0x0022#16),
        some (.write .p (.ctrl 0x0100#16) 4096#16), 10) := by
  decide +kernel

theorem test_fEnqueue_vdsp5 :
    after .fEnqueue (arrived e0) (fun t => (t.slots[0], t.wrBin, t.pTodo)) = some (e0, 1#5, []) := by decide +kernel

theorem test_ackUpdate_vdsp13 :
    after .ackUpdate
      { State.reset with prevId := 0x03#8, readsInfo := true, pReply := some 0x12#16, answers := [0x0005#16] }
      (fun t => (t.ack, t.ackOut)) = some (0x0305#16, 0x0305#16) := by decide +kernel

theorem test_ackUpdate_vdsp5 :
    after .ackUpdate { State.reset with prevId := 0x02#8, ack := 0x1077#16 } (fun t => (t.ack, t.ackOut)) =
      some (0x0277#16, 0x0277#16) := by decide +kernel

theorem test_ackEmit_vack1 :
    after .ackEmit { State.reset with ack := 0x2A05#16 } (fun t => t.ackOut) = some 0x2A05#16 := by decide +kernel

theorem test_tick_empty_vtk1 :
    after .tick State.reset (fun t => (t.qEntry, t.qBusy, t.bus, t.emitDue)) = some (none, false, [], 1) := by
  decide +kernel

theorem test_tick_vtk2 :
    after .tick oneHeld (fun t => (t.qStage, t.qBusy, t.qTodo, t.bus, t.rdBin)) =
      some (e0, true, [.aDrive], [.write .q (.ctrl 0x0000#16) 0#16], 1#5) := by decide +kernel

theorem test_aWriteMod_vmod10 :
    after .aWriteMod
      (applying (entry 5#8 0#8 0xE0#8 4#8 [0xE8#8, 0x03#8, 0x00#8, 0x00#8, 0xAA#8, 0xBB#8, 0xCC#8, 0xDD#8]
        [0#16, 0#16, 0#16, 0#16, 0#16]))
      (fun t => (t.modCycle, t.ctrlReg 0x0012#16, t.ctrlReg 0x0013#16, t.mem.readWord (2 * deviceWord .mod 0 0),
        t.mem.readWord (2 * deviceWord .mod 2 0), t.ctrlReg 0x0011#16)) =
      some (4#32, 0x03E8#16, 0#16, 0xBBAA#16, 0xDDCC#16, 3#16) := by decide +kernel

theorem test_aWriteMod_vmod11 :
    after .aWriteMod (applying (entry 5#8 0#8 0x80#8 2#8 [0x55#8, 0x66#8] [0#16, 0#16, 0#16, 0#16, 0#16]))
      (fun t => (t.modCycle, t.mem.readWord (2 * deviceWord .mod 2 0))) = some (4#32, 0x6655#16) := by decide +kernel

theorem test_aConfigSilencer_vtk3 :
    after .aConfigSilencer
      (applying (entry 5#8 0x02#8 0x20#8 0#8 [0x0A#8, 0x00#8, 0x00#8, 0x10#8] [0#16, 0#16, 0#16, 0#16, 0#16]))
      (fun t => (t.ctrlReg 0x0030#16, t.ctrlReg 0x0031#16)) = some (0x000A#16, 0x1000#16) := by decide +kernel

theorem test_aHeaderOnly : after .aHeaderOnly oneHeld id = some oneHeld := by decide +kernel

theorem test_aModDelay_vtk5 :
    after .aModDelay (applying (entry 5#8 0x0C#8 0x11#8 0#8 [] [3#16, 4#16, 5#16, 6#16, 7#16]))
      (fun t => (t.ctrlReg 0x0200#16, t.ctrlReg 0x0204#16, t.stmCycle)) = some (3#16, 7#16, 0#32) := by decide +kernel

/-- What DRIVE_WRITE gives is open (rule R248): the counters stay, whatever it is. -/
theorem test_aDrive_vtk6 :
    after .aDrive (applying (entry 5#8 0#8 0x03#8 0#8 [] [3#16, 4#16, 5#16, 6#16, 7#16])) (fun t => t.stmCycle) =
      some 0#32 := by
  simp only [after, exec, execADrive, bramWrites_stmCycle]
  rfl

/-- A state with `N` = 13, whose Body holds two point samples after a head's five words. -/
def pointHead : State :=
  { State.reset with
    cfg := { Config.illustration with n := 13, drvWords := 26 }
    cycleTab := List.replicate 13 0#16
    slots := Vector.replicate Config.slots (zeroEntry { Config.illustration with n := 13 })
    pStage := zeroEntry { Config.illustration with n := 13 }
    qStage := entry 5#8 0x04#8 0x07#8 0#8 []
      [2#16, 0x03E8#16, 0#16, 0x1111#16, 0x2222#16, 1#16, 2#16, 3#16, 4#16, 5#16, 6#16, 7#16, 8#16] }

/-- The source's scenario, 43_point_writer.md rule R201: the head frame, here with `STM_END` as well. -/
theorem test_aPointStm_head_r201 :
    after .aPointStm pointHead
      (fun t => (t.stmCycle, t.ctrlReg 0x0022#16, t.ctrlReg 0x0024#16, t.mem.readWord (2 * deviceWord .pstm 0 3),
        t.mem.readWord (2 * deviceWord .pstm 1 0), t.ctrlReg 0x0021#16)) =
      some (2#32, 0x03E8#16, 0x1111#16, 4#16, 5#16, 1#16) := by decide +kernel

theorem test_aPointStm_body_r201 :
    after .aPointStm
      { State.reset with stmCycle := 3#32, qStage := entry 5#8 0x04#8 0x05#8 0#8 [] [1#16, 9#16, 8#16, 7#16, 6#16] }
      (fun t => (t.stmCycle, t.mem.readWord (2 * deviceWord .pstm 3 0), t.ctrlReg 0x0021#16)) =
      some (4#32, 9#16, 3#16) := by decide +kernel

theorem test_aGainStm_head_vgn10 :
    after .aGainStm
      { State.reset with
        stmCycle := 17#32, qStage := entry 5#8 0x0C#8 0x03#8 0#8 [] [0x03E8#16, 0#16, 0x0030#16, 0#16, 0#16] }
      (fun t => (t.stmCycle, t.stmBase, t.ctrlReg 0x0022#16, t.gainMode)) = some (0#32, 0#16, 0x03E8#16, 0x0030#16) := by
  decide +kernel

/-- V-GN-6, with `LEGACY_STRIDE` = 2. -/
theorem test_aGainStm_half_vgn6 :
    after .aGainStm
      { State.reset with
        gainMode := 0x0030#16, qStage := entry 5#8 0x0E#8 0x01#8 0#8 [] [0xABCD#16, 0x1234#16, 0#16, 0#16, 0#16] }
      (fun t => (t.stmCycle, t.mem.readWord (2 * deviceWord .gstm 0 0), t.mem.readWord (2 * deviceWord .gstm 1 2),
        t.mem.readWord (2 * deviceWord .gstm 3 0))) = some (4#32, 0xFFDD#16, 0xFF33#16, 0xFFAA#16) := by decide +kernel

theorem test_gPhaseDutyFull_vgn2 :
    after .gPhaseDutyFull (applying (entry 5#8 0x0E#8 0x01#8 0#8 [] [0x80FF#16, 0x1234#16, 0#16, 0#16, 0#16]))
      (fun t => (t.gainCount, (t.gainPasses.getD 0 []).take 2)) =
      some (1#16, [(0#9, 0x80FF#16), (2#9, 0x1234#16)]) := by decide +kernel

theorem test_gPhaseFull_vgn5 :
    after .gPhaseFull (applying (entry 5#8 0x0E#8 0x01#8 0#8 [] [0xABCD#16, 0x1234#16, 0#16, 0#16, 0#16]))
      (fun t => (t.gainCount, (t.gainPasses.getD 0 []).take 2, (t.gainPasses.getD 1 []).take 2)) =
      some (2#16, [(0#9, 0xFFCD#16), (2#9, 0xFF34#16)], [(0#9, 0xFFAB#16), (2#9, 0xFF12#16)]) := by decide +kernel

theorem test_gPhaseHalf_vgn7 :
    after .gPhaseHalf (applying (entry 5#8 0x0C#8 0x01#8 0#8 [] [0xABCD#16, 0x1234#16, 0#16, 0#16, 0#16]))
      (fun t => (t.gainCount, t.gainPasses)) = some (0#16, []) := by decide +kernel

/-- 20_memory.md rule R79: with no synchronize under way the gain writer reads `cycle_tab[i]`; with one, the element of
one table or the other. -/
theorem test_tableWord_r79 :
    tableWord { State.reset with cycleTab := [1#16, 2#16, 3#16, 4#16, 5#16] } 4 = 5#16 ∧
    tableWord { State.reset with cycleTab := [9#16], tabOld := some [9#16] } 0 = 9#16 := by
  refine ⟨by decide +kernel, ?_⟩
  simp only [tableWord]
  split <;> rfl

/-! ## The step -/

/-- 20_memory.md rule R67: a silencer command runs, and between its two device writes falls one of a synchronize. -/
theorem test_writes_interleave_r67 :
    (match core.run 4
        { State.reset with
          sched := [.q, .q, .p, .q], qTodo := [.aConfigSilencer], qBusy := true
          qStage := entry 5#8 0x02#8 0x20#8 0#8 [0x0A#8, 0x00#8, 0x00#8, 0x10#8] [0#16, 0#16, 0#16, 0#16, 0#16]
          pPending := [(.ctrl 0x0100#16, 4096#16)] } with
      | .next t => (t.bus, t.qBusy)
      | _ => ([], true)) =
      ([.write .q (.ctrl 0x0031#16) 0x1000#16, .write .p (.ctrl 0x0100#16) 4096#16,
        .write .q (.ctrl 0x0030#16) 0x000A#16], false) := by decide +kernel

/-- 41_ring_writer.md rule R159: SEG.RESET at the port is refused without a clear of domain P. -/
theorem test_segReset_refused_outside_rendezvous_r159 :
    (step { State.reset with sched := [.q], qIn := [.wcmd 4#32 (.words [])] } matches .refused .outsideRendezvous) =
      true := by decide +kernel

/-- 40_mailbox.md rule R128: in the rendezvous SEG.RESET and the clear are one step, so a tick that waits behind them at Q's
port finds the mailbox empty. -/
theorem test_segReset_and_clear_are_one_step_r128 :
    (match core.run 2
        { oneHeld with
          sched := [.q, .q], modCycle := 9#32, qIn := [.wcmd 4#32 (.words []), .tick], pIn := [.pcmd 2#8 e0] } with
      | .next t => (t.modCycle, t.wrBin, t.qEntry, t.bus, t.pIn, t.qIn)
      | _ => (0#32, 9#5, none, [], [], [.tick])) = (2#32, 0#5, none, [], [], []) := by decide +kernel

/-! ## The fetch words -/

/-- A PCMD byte, a Header byte and a WCMD word run as the first operation after reset. -/
theorem test_withFetchWord :
    (match step (State.reset.withFetchWord 8 0x01) with | .next t => t.wrBin | _ => 0#5) = 1#5 ∧
    (match step (State.reset.withFetchWord 8 0xF5) with | .next t => t.pTodo | _ => []) = [.ackUpdate] ∧
    (match step (State.reset.withFetchWord 32 0x00000001) with | .next t => t.modCycle | _ => 7#32) = 0#32 ∧
    (match step (State.reset.withFetchWord 32 0x00000004) with | .next t => t.wDone | _ => false) = true := by
  decide +kernel

/-! ## Witnesses: for each statement with hypotheses, a state and operands that meet all of them, at a boundary of each
clause -/

/-- The schedule's next turns and the requests at the ports of a reset block. -/
def waiting (ts : List Turn) (p q : List Request) : State := { State.reset with sched := ts, pIn := p, qIn := q }

/-- The illustration meets the constraints of rule R5. -/
theorem illustration_valid : Config.illustration.Valid := by
  refine ⟨by decide, ⟨?_, by decide⟩, by decide, by decide, by decide, by decide, ⟨by decide, by decide, ?_⟩, by decide,
    by decide, by decide⟩
  · simp only [Params.fpgaMasks, List.forall_mem_cons, List.not_mem_nil, false_imp_iff, implies_true, and_true]
    decide
  · simp only [Params.singleRegs, List.forall_mem_cons, List.not_mem_nil, false_imp_iff, implies_true, and_true]
    and_intros <;> decide

/-- So does it with 13 transducers. -/
theorem wide_valid : pointHead.cfg.Valid := by
  refine ⟨by decide, illustration_valid.2.1, by decide, by decide, by decide, by decide, ⟨by decide, by decide, ?_⟩,
    by decide, by decide, by decide⟩
  simp only [Params.singleRegs, List.forall_mem_cons, List.not_mem_nil, false_imp_iff, implies_true, and_true]
  and_intros <;> decide

/-- 00_scope.md rule R5: with no timestamp words the timestamp's range is empty and overlaps nothing, wherever its base
lies; two ranges that share a word overlap. -/
theorem test_apart_r5 :
    apart (0x0100, 5) (0x0102, 0) ∧ ¬ apart (0x0100, 5) (0x0104, 1) ∧ apart (0x0100, 5) (0x0105, 1) := by decide

theorem witness_EncodedOperationsDecodeBack :
    (Instr.segWriteMod 3#16 [1#16, 2#16]).wellFormed Config.illustration = true ∧
    (encode (.segWriteMod 3#16 [1#16, 2#16])).isSome = true ∧
    (Instr.arrive e0).wellFormed Config.illustration = true ∧ (encode (.arrive e0)).isSome = true := by
  decide +kernel

theorem witness_AcceptedWordsAreTheEncodings :
    decodePcmd 0x02#8 e0 = .ok .mbxClr ∧ decodeCcmd 0x01#8 = .ok .mbxPop ∧
    decodeWcmd 0x00000111#32 (.words []) ≠ .ok .segBeginGstm ∧
    decodeWcmd 0x00FFFF0A#32 (.words []) = .ok (.segWritePstm 0xFFFF#16 []) ∧
    decodeFrame Config.illustration (encodeEntry e0) = .ok (.arrive e0) := by decide +kernel

/-- One state for each clause, the word the least that the clause names; of the third and the last, one for each of their
cases. -/
theorem witness_RequestsNotOfferedAreRefused :
    ((waiting [.p] [.pcmd 3#8 e0] []).pTodo = [] ∧ (waiting [.p] [.pcmd 3#8 e0] []).pPending = [] ∧ 3 ≤ (3#8).toNat) ∧
    ((waiting [.q] [] [.ccmd 2#8]).qTodo = [] ∧ (waiting [.q] [] [.ccmd 2#8]).qPending = [] ∧ 2 ≤ (2#8).toNat) ∧
    (0x20#32).toNat / 32 % 8 ≠ 0 ∧ (0x01000000#32).toNat / 2 ^ 24 ≠ 0 ∧ 5 ≤ (5#32).toNat % 8 ∧
    (0x1A#32).toNat / 8 % 4 = 3 ∧ ((0x0C#32).toNat % 8 = 4 ∧ (0x0C#32).toNat / 8 % 4 ≠ 0) ∧
    ((0x101#32).toNat % 8 ≠ 2 ∧ (0x101#32).toNat / 256 % 65536 ≠ 0) ∧
    ((waiting [.p] [.ccmd 1#8] []).pTodo = [] ∧ (Request.ccmd 1#8).agent = .q) ∧
    ((waiting [.q] [] [.pcmd 1#8 e0]).qTodo = [] ∧ (Request.pcmd 1#8 e0).agent = .p) ∧
    ((waiting [.q] [] [.wcmd 4#32 (.words [])]).pTodo = [] ∧ (waiting [.q] [] [.wcmd 4#32 (.words [])]).pIn = []) ∧
    ({ waiting [.q] [] [.wcmd 4#32 (.words [])] with qBusy := true } : State).qBusy = true ∧
    ({ waiting [.q] [] [.wcmd 4#32 (.words [])] with pTodo := [.ackUpdate] } : State).pTodo = .ackUpdate :: [] ∧
    decodeRequest Config.illustration .p (.pcmd 0#8 e0) ≠ .ok .mbxClr ∧
    (List.replicate 137 0#8).length ≠ 128 + 2 * Config.illustration.n ∧
    (waiting [.q] [] [.wcmd (wcmdWord 0xFFFF#16 1 2) (.passes [])]).qIn = .wcmd (wcmdWord 0xFFFF#16 1 2) (.passes []) :: [] ∧
    (waiting [.q] [] [.wcmd (wcmdWord 0#16 2 2) (.words [])]).qIn = .wcmd (wcmdWord 0#16 2 2) (.words []) :: [] ∧
    (decodeRequest Config.illustration .q (.wcmd 0x202#32 (.words [])) = .ok (.segWriteMod 2#16 []) ∧
      (Instr.segWriteMod 2#16 []).wellFormed Config.illustration = false) ∧
    (decodeRequest Config.illustration .p (.pcmd 1#8 { e0 with body := [] }) = .ok (.mbxPush { e0 with body := [] }) ∧
      (Instr.mbxPush { e0 with body := [] }).wellFormed Config.illustration = false) ∧
    ({ waiting [.q] [] [.wcmd 4#32 (.words [])] with pPending := [(.ctrl 0#16, 1#16)] } : State).pPending ≠ [] := by
  decide +kernel

theorem witness_StepRunsTheDecodedOperation :
    ({ waiting [.p] [] [] with pPending := [(.ctrl 0#16, 1#16)] } : State).pPending = (.ctrl 0#16, 1#16) :: [] ∧
    ({ waiting [.q] [] [] with qPending := [(.modt 0#14, 1#16)], qBusy := true } : State).qPending =
      (.modt 0#14, 1#16) :: [] ∧
    ((waiting [.p] [.pcmd 1#8 e0] []).pPending = [] ∧ (waiting [.p] [.pcmd 1#8 e0] []).pTodo = [] ∧
      decodeRequest Config.illustration .p (.pcmd 1#8 e0) = .ok (.mbxPush e0) ∧
      (Instr.mbxPush e0).wellFormed Config.illustration = true) ∧
    ((waiting [.q] [] [.wcmd 0x202#32 (.words [0x2211#16])]).qPending = [] ∧
      (waiting [.q] [] [.wcmd 0x202#32 (.words [0x2211#16])]).qTodo = [] ∧
      decodeRequest Config.illustration .q (.wcmd 0x202#32 (.words [0x2211#16])) =
        .ok (.segWriteMod 2#16 [0x2211#16]) ∧
      (Instr.segWriteMod 2#16 [0x2211#16]).wellFormed Config.illustration = true) ∧
    ((waiting [.q] [.pcmd 2#8 e0] [.wcmd 4#32 (.words [])]).pIn = .pcmd 2#8 e0 :: [] ∧
      decodeRequest Config.illustration .p (.pcmd 2#8 e0) = .ok .mbxClr) ∧
    ({ waiting [.q] [] [.wcmd 4#32 (.words [])] with pTodo := [.fClear, .ackUpdate] } : State).pTodo =
      .fClear :: [.ackUpdate] ∧
    ({ waiting [.p] [] [] with pTodo := [.fEnqueue, .ackUpdate] } : State).pTodo = .fEnqueue :: [.ackUpdate] ∧
    ({ waiting [.q] [] [] with qTodo := [.aDrive], qBusy := true } : State).qTodo = .aDrive :: [] ∧
    (waiting [.sw none] [] []).sched = .sw none :: [] ∧ (waiting [.sr (some 0#5)] [] []).sched = .sr (some 0#5) :: [] ∧
    ({ waiting [.emit] [] [] with emitDue := 1 } : State).emitDue = 0 + 1 := by decide +kernel

/-- A state in which each domain has a device write to make, and each a command after it. -/
def bothWriting : State :=
  { State.reset with
    pPending := [(.ctrl 0x0000#16, 0x0022#16)], qPending := [(.ctrl 0x0000#16, 0x0004#16)], qBusy := true }

theorem witness_CommandWritesGoOutOneByOne :
    (bothWriting.pPending = (.ctrl 0x0000#16, 0x0022#16) :: [] ∧ bothWriting.qPending = (.ctrl 0x0000#16, 0x0004#16) :: [] ∧
      bothWriting.mem.wf = true) ∧
    (leftOfTick .aConfigSilencer = true ∧
      (match exec .aConfigSilencer { applying e0 with qTodo := [] } with | .next u => u.bus.length | _ => 0) = 2) ∧
    (match exec .fSynchronize { arrived e0 with pTodo := [.ackUpdate] } with | .next u => u.bus.length | _ => 0) = 10 := by
  decide +kernel

theorem witness_IdleBlockHoldsItsState :
    State.reset.sched = [] ∧
    ((waiting [.p] [] []).sched = .p :: [] ∧ (waiting [.p] [] []).pPending = [] ∧ (waiting [.p] [] []).pTodo = [] ∧
      (waiting [.p] [] []).pIn = []) ∧
    ((waiting [.q] [] []).sched = .q :: [] ∧ (waiting [.q] [] []).qPending = [] ∧ (waiting [.q] [] []).qTodo = [] ∧
      (waiting [.q] [] []).qIn = []) ∧
    (waiting [.emit] [] []).sched = .emit :: [] ∧ (waiting [.emit] [] []).emitDue = 0 := by decide +kernel

/-- A bounded retry loop that fails once more than its bound allows. -/
def lastTry : State := { fullBox with cfg := { Config.illustration with retryLimit := some 3 }, pTries := 2 }

theorem witness_OnlyTheThreeFaultMarksStop :
    (exec (.segWriteMod 2#16 [0#16]) (modAt 7#32) matches .fault (.modOddOffset 7 2)) = true ∧
    (exec (.segWriteGstm 33#16 []) State.reset matches .fault (.segOverrun .gstm 0 33)) = true ∧
    (exec .enq lastTry matches .fault (.mailboxOverflow 31 0)) = true := by decide +kernel

theorem witness_PushStoresAndAdvances :
    gray5 (fullBox.wrBin + 1#5) = fullBox.rdGrayP ∧ gray5 (oneHeld.wrBin + 1#5) ≠ oneHeld.rdGrayP := by decide +kernel

theorem witness_PopCopiesAndAdvances :
    State.reset.rdGray = State.reset.wrGrayQ ∧ oneHeld.rdGray ≠ oneHeld.wrGrayQ := by decide +kernel

theorem witness_PushAndPopFailExactlyWhenSeen :
    CursorInv fullBox ∧ (held fullBox).length = 31 ∧ CursorInv oneHeld ∧ (held oneHeld).length = 1 ∧
    CursorInv State.reset ∧ held State.reset = [] := by decide +kernel

/-- V-MBX-8 and V-MBX-9: both ends of each path. -/
theorem witness_SynchronisersKeepToTheirPath :
    onPath (ungray5 0x06#5) 7#5 4#5 = true ∧ onPath (ungray5 0x06#5) 7#5 7#5 = true ∧
    onPath (ungray5 0x06#5) 7#5 3#5 = false ∧ onPath (ungray5 0x06#5) 7#5 8#5 = false ∧
    onPath (ungray5 0x11#5) 2#5 30#5 = true ∧ onPath (ungray5 0x11#5) 2#5 2#5 = true := by decide

/-- A fair run of a block to which no frame comes: SW, SR and a tick, over and over. -/
def tickingState (k r : Nat) (turn : Turn) (q : List Request) : State :=
  { State.reset with sched := [turn], qIn := q, draws := 2 * k + r, emitDue := k }

/-- Its states, three steps to a round. -/
def ticking (n : Nat) : State :=
  match n % 3 with
  | 0 => tickingState (n / 3) 0 (.sw (some 0#5)) []
  | 1 => tickingState (n / 3) 1 (.sr (some 0#5)) []
  | _ => tickingState (n / 3) 2 .q [.tick]

theorem ticking_sw (k : Nat) : ticking (3 * k) = tickingState k 0 (.sw (some 0#5)) [] := by
  have h1 : 3 * k % 3 = 0 := by omega
  have h2 : 3 * k / 3 = k := by omega
  simp only [ticking, h1, h2]

theorem ticking_sr (k : Nat) : ticking (3 * k + 1) = tickingState k 1 (.sr (some 0#5)) [] := by
  have h1 : (3 * k + 1) % 3 = 1 := by omega
  have h2 : (3 * k + 1) / 3 = k := by omega
  simp only [ticking, h1, h2]

theorem ticking_q (k : Nat) : ticking (3 * k + 2) = tickingState k 2 .q [.tick] := by
  have h1 : (3 * k + 2) % 3 = 2 := by omega
  have h2 : (3 * k + 2) / 3 = k := by omega
  simp only [ticking, h1, h2]

/-- A synchroniser whose cursor is up to date stays there. -/
theorem sample_of_idle (d : Nat) : gray5 (syncSample (ungray5 0#5) 0#5 (some 0#5) d) = 0#5 := by
  rw [syncSample_named _ _ _ _ (by decide)]
  decide

theorem ticking_isRun : IsRun ticking := by
  intro n
  obtain ⟨k, rfl | rfl | rfl⟩ : ∃ k, n = 3 * k ∨ n = 3 * k + 1 ∨ n = 3 * k + 2 := ⟨n / 3, by omega⟩
  · have h : step (tickingState k 0 (.sw (some 0#5)) []) = .next
        { tickingState k 1 .q [] with
          sched := [], wrGrayQ := gray5 (syncSample (ungray5 0#5) 0#5 (some 0#5) (2 * k + 0)) } := rfl
    rw [sample_of_idle] at h
    rw [ticking_sw, ticking_sr]
    exact ⟨_, h, rfl⟩
  · have h : step (tickingState k 1 (.sr (some 0#5)) []) = .next
        { tickingState k 2 .q [] with
          sched := [], rdGrayP := gray5 (syncSample (ungray5 0#5) 0#5 (some 0#5) (2 * k + 1)) } := rfl
    rw [sample_of_idle] at h
    rw [ticking_sr, ticking_q]
    exact ⟨_, h, rfl⟩
  · rw [ticking_q, show 3 * k + 2 + 1 = 3 * (k + 1) by omega, ticking_sw]
    exact ⟨_, rfl, rfl⟩

theorem witness_SeenCursorsCatchUp :
    FairRun ticking ∧ CursorInv (ticking 0) ∧ (∀ m, 0 ≤ m → (ticking m).wrGray = (ticking 0).wrGray) ∧
    ∀ m, 0 ≤ m → (ticking m).rdGray = (ticking 0).rdGray := by
  have gray : ∀ m, (ticking m).wrGray = 0#5 ∧ (ticking m).rdGray = 0#5 := by
    intro m
    unfold ticking
    split <;> exact ⟨rfl, rfl⟩
  refine ⟨⟨ticking_isRun, fun n => ⟨⟨3 * n, by omega, ?_⟩, ⟨3 * n + 1, by omega, ?_⟩, 3 * n + 2, by omega, ?_⟩⟩,
    by decide +kernel, fun m _ => by rw [(gray m).1, (gray 0).1], fun m _ => by rw [(gray m).2, (gray 0).2]⟩
  · rw [SwReaches, ticking_sw, ticking_sr]
    refine ⟨⟨_, _, rfl⟩, ?_⟩
    change 0#5 = gray5 0#5
    decide
  · rw [SrReaches, ticking_sr, ticking_q]
    refine ⟨⟨_, _, rfl⟩, ?_⟩
    change 0#5 = gray5 0#5
    decide
  · rw [TickTaken, ticking_q]
    exact ⟨⟨_, rfl⟩, rfl, rfl, _, rfl⟩

theorem witness_MailboxClearIsOneTransition :
    oneHeld.qBusy = false ∧ ({ oneHeld with qBusy := true } : State).qBusy = true := by decide +kernel

theorem witness_CursorInvariantIsKept :
    CursorInv (waiting [.p] [.pcmd 1#8 e0] []) ∧
    (match step (waiting [.p] [.pcmd 1#8 e0] []) with | .next t => t.wrBin | _ => 0#5) = 1#5 := by decide +kernel

theorem witness_MailboxDeliversInOrder :
    CursorInv oneHeld ∧ after (.mbxPush e0) oneHeld (fun t => (held t).length) = some 2 ∧
    after .enq oneHeld (fun t => (held t).length) = some 2 ∧ after .mbxPop oneHeld (fun t => (held t).length) = some 0 ∧
    after .mbxClr oneHeld held = some [] ∧ after (.sw none) oneHeld (fun t => t.draws) = some 1 := by decide +kernel

theorem witness_PushedEntryIsPoppedAfterSync :
    CursorInv State.reset ∧ held State.reset = [] ∧ fullP State.reset = false := by decide +kernel

theorem witness_RetryLoopAttempts :
    fullP State.reset = false ∧ (fullP fullBox = true ∧ fullBox.cfg.retryLimit ≠ some (fullBox.pTries + 1)) ∧
    fullP lastTry = true ∧ lastTry.cfg.retryLimit = some (lastTry.pTries + 1) := by decide +kernel

/-- A memory that holds something, for the statements that ask only for its canonical form. -/
theorem witness_memory_form : (modAt 0x10000#32).mem.wf = true ∧ (modAt 0x10000#32).mem ≠ [] := by decide +kernel

/-- Both ends of the range of counts, at a boundary and at its last place. -/
theorem witness_ModWriteLaysSamplesOut :
    (modAt 32764#32).mem.wf = true ∧ (modAt 32764#32).modCycle.toNat % 2 = 0 ∧
    (List.replicate 16386 7#16).length = ((32772#16).toNat + 1) / 2 ∧
    (32772#16).toNat ≤ 32768 - (modAt 32764#32).modCycle.toNat % 32768 + 32768 ∧ BaseTracks .mod (modAt 32764#32) ∧
    (modAt 32764#32).modCycle.toNat + (32772#16).toNat < 2 ^ 31 ∧
    BaseTracks .mod { State.reset with modCycle := 32768#32 } ∧
    BaseTracks .mod (modAt 0x7FFFFFFC#32) ∧ (modAt 0x7FFFFFFC#32).modCycle.toNat + (3#16).toNat < 2 ^ 31 := by
  refine ⟨by decide +kernel, by decide +kernel, by rw [List.length_replicate]; decide, by decide +kernel, by decide +kernel,
    by decide +kernel, by decide +kernel, by decide +kernel, by decide +kernel⟩

theorem witness_PointWriteLaysSamplesOut :
    (pstmAt 2046#32).mem.wf = true ∧ (List.replicate 8200 7#16).length = 4 * (2050#16).toNat ∧
    (2050#16).toNat ≤ 2048 - (pstmAt 2046#32).stmCycle.toNat % 2048 + 2048 ∧ BaseTracks .pstm (pstmAt 2046#32) ∧
    (pstmAt 2046#32).stmCycle.toNat + (2050#16).toNat < 2 ^ 27 ∧
    BaseTracks .pstm { State.reset with stmCycle := 2048#32 } := by
  refine ⟨by decide +kernel, by rw [List.length_replicate]; decide, by decide +kernel, by decide +kernel, by decide +kernel,
    by decide +kernel⟩

theorem witness_RunsDoNotDependOnTheCut :
    ([1#16, 2#16].length = (4#16).toNat / 2 ∧ [3#16, 4#16].length = ((3#16).toNat + 1) / 2 ∧ (4#16).toNat % 2 = 0 ∧
      (modAt 32764#32).modCycle.toNat % 2 = 0 ∧ (4#16).toNat + (3#16).toNat < 2 ^ 16 ∧
      (modAt 32764#32).modCycle.toNat + (4#16).toNat + (3#16).toNat < 2 ^ 32 ∧
      (4#16).toNat + (3#16).toNat ≤ 32768 - (modAt 32764#32).modCycle.toNat % 32768 + 32768) ∧
    [1#16, 2#16, 3#16, 4#16].length = 4 * (1#16).toNat ∧
    (List.replicate 8192 7#16).length = 4 * (2048#16).toNat ∧
    (pstmAt 2047#32).stmCycle.toNat + (1#16).toNat + (2048#16).toNat < 2 ^ 32 ∧
    (1#16).toNat + (2048#16).toNat ≤ 2048 - (pstmAt 2047#32).stmCycle.toNat % 2048 + 2048 := by
  refine ⟨by decide +kernel, by decide, by rw [List.length_replicate]; decide, by decide +kernel, by decide +kernel⟩

/-- Each clause at an end of its range: the room of 32766 and 2046 is 2, so 32770 and 2050 units are the most. -/
theorem witness_SegWriteMakesTheListedWrites :
    32768 - (modAt 32766#32).modCycle.toNat % 32768 + 32768 < (32771#16).toNat ∧
    (32769#16 ≠ 0#16 ∧ (32769#16).toNat ≤ 32768 - (modAt 32767#32).modCycle.toNat % 32768 + 32768 ∧
      (modAt 32767#32).modCycle.toNat % 2 = 1) ∧
    (1#16 ≠ 0#16 ∧ (1#16).toNat ≤ 32768 - (modAt 32768#32).modCycle.toNat % 32768 + 32768 ∧
      (modAt 32768#32).modCycle.toNat % 2 = 0 ∧ [1#16].length = ((1#16).toNat + 1) / 2) ∧
    (32770#16).toNat ≤ 32768 - (modAt 32766#32).modCycle.toNat % 32768 + 32768 ∧
    2048 - (pstmAt 2046#32).stmCycle.toNat % 2048 + 2048 < (2051#16).toNat ∧
    (2#16 ≠ 0#16 ∧ (2#16).toNat ≤ 2048 - (pstmAt 0xFFFFFFFF#32).stmCycle.toNat % 2048 + 2048 ∧
      [1#16, 2#16, 3#16, 4#16, 5#16, 6#16, 7#16, 8#16].length = 4 * (2#16).toNat) ∧
    (2050#16).toNat ≤ 2048 - (pstmAt 2046#32).stmCycle.toNat % 2048 + 2048 := by decide +kernel

theorem witness_BaseIsWrittenOncePerBoundary :
    (after (.segWriteMod 8#16 [1#16, 2#16, 3#16, 4#16]) (modAt 32764#32) fun t => t.bus.length) = some 6 ∧
    (after (.segWritePstm 1#16 [1#16, 2#16, 3#16, 4#16]) (pstmAt 2048#32) fun t => t.bus.length) = some 6 := by
  decide +kernel

theorem witness_GainWriteFillsSlots :
    32 < (33#16).toNat ∧ (gstmAt 31#32).mem.wf = true ∧ (32#16).toNat ≤ 32 ∧ (List.replicate 32 [(0#9, 1#16), (511#9, 2#16)]).length =
      (32#16).toNat ∧ (List.replicate 32 [(0#9, 1#16), (511#9, 2#16)]).all Pass.ascending = true ∧
    ((gstmAt 31#32).stmCycle.toNat + (1#16).toNat) % 32 = 0 ∧
    ((gstmAt 31#32).stmCycle.toNat + (2#16).toNat) % 32 ≠ 0 := by decide +kernel

theorem witness_AlignedGainStreamIsContiguous :
    (gstmAt 28#32).mem.wf = true ∧ [[(0#9, 1#16)], [], [], []].length = (4#16).toNat ∧
    [[(0#9, 1#16)], [], [], []].all Pass.ascending = true ∧ (gstmAt 28#32).stmCycle.toNat % (4#16).toNat = 0 ∧
    (gstmAt 28#32).stmCycle.toNat + (4#16).toNat < 2 ^ 21 ∧
    (gstmAt 28#32).stmBase = BitVec.ofNat 16 ((gstmAt 28#32).stmCycle.toNat / 32) ∧
    (gstmAt 0x1FFFFE#32).stmBase = BitVec.ofNat 16 ((gstmAt 0x1FFFFE#32).stmCycle.toNat / 32) ∧
    (gstmAt 0x1FFFFE#32).stmCycle.toNat + (1#16).toNat < 2 ^ 21 := by decide +kernel

/-- Two writes that fill two segments but for one unit; a stream of no write at all meets the hypotheses too. -/
theorem witness_LengthRegisterLaw :
    (∀ w ∈ [(32768#16, ([] : List Word)), (32767#16, [])], w.1.toNat ≤ 32768) ∧
    (∀ w ∈ [(32768#16, ([] : List Word)), (32767#16, [])].dropLast, w.1.toNat % 2 = 0) ∧
    ([(32768#16, ([] : List Word)), (32767#16, [])].map fun w => w.1.toNat).sum < 2 ^ 16 ∧
    (∀ w ∈ [(2048#16, ([] : List Word)), (1#16, [])], w.1.toNat ≤ 2048) ∧
    ([(2048#16, ([] : List Word)), (1#16, [])].map fun w => w.1.toNat).sum < 2 ^ 16 ∧
    (∀ w ∈ [(32#16, ([] : List Pass)), (1#16, [[]])], w.1.toNat ≤ 32) ∧
    ([(32#16, ([] : List Pass)), (1#16, [[]])].map fun w => w.1.toNat).sum < 2 ^ 16 := by decide +kernel

theorem witness_CountersChangeOnlyByTheWriter :
    after .segBeginMod State.reset (fun t => decide (t.modCycle = State.reset.modCycle)) = some false ∧
    after .segBeginPstm (pstmAt 7#32) (fun t => decide (t.stmCycle = 7#32)) = some false := by decide +kernel

theorem witness_ArrivalSelectsTheCommand :
    e0.hdr.messageId = (arrived e0).prevId ∧ e0.hdr.messageId ≠ State.reset.prevId := by decide +kernel

theorem witness_MessageIdSelectsTheCommand :
    (header 0xF1#8 0#8 0#8 0#8 []).messageId ≠ 0#8 ∧ 0xF1 ≤ (header 0xF1#8 0#8 0#8 0#8 []).messageId.toNat ∧
    0xF1 ≤ (header 0xFF#8 0#8 0#8 0#8 []).messageId.toNat ∧
    (0x05 ≤ (header 0x05#8 0#8 0#8 0#8 []).messageId.toNat ∧ (header 0xF0#8 0#8 0#8 0#8 []).messageId.toNat ≤ 0xF0) := by
  decide +kernel

theorem witness_GlobalClearReinitialises :
    beforeClear.cfg.Valid ∧ beforeClear.mem.wf = true ∧ beforeClear.qBusy = false ∧
    ({ beforeClear with qBusy := true } : State).qBusy = true :=
  ⟨illustration_valid, by decide +kernel⟩

theorem witness_VersionReadsReplyOneByte :
    ({ State.reset with answers := [0x8A12#16] } : State).answers = 0x8A12#16 :: [] := by decide +kernel

theorem witness_SynchronizeWritesTheTables :
    (arrived e0).cfg.Valid ∧ (arrived e0).mem.wf = true ∧ (arrived e0).pStage.body.length = (arrived e0).cfg.n :=
  ⟨illustration_valid, by decide +kernel⟩

theorem witness_AcknowledgmentIsRecomputedAndRedriven :
    ({ State.reset with readsInfo := true } : State).readsInfo = true ∧
    (State.reset.readsInfo = false ∧ ({ State.reset with pReply := some 0x12#16 } : State).pReply = some 0x12#16) ∧
    State.reset.pReply = none := by decide +kernel

theorem witness_DuplicateFrameOnlyRefreshesTheAck :
    (waiting [.p, .p, .p] [.frame (encodeEntry e0)] []).sched = .p :: .p :: .p :: [] ∧
    ({ waiting [.p, .p, .p] [.frame (encodeEntry e0)] [] with prevId := 8#8 } : State).pTodo = [] ∧
    ({ waiting [.p, .p, .p] [.frame (encodeEntry e0)] [] with prevId := 8#8 } : State).pPending = [] ∧
    e0.body.length = Config.illustration.n ∧
    e0.hdr.messageId = ({ waiting [.p, .p, .p] [.frame (encodeEntry e0)] [] with prevId := 8#8 } : State).prevId := by
  decide +kernel

theorem witness_TickPopsAndSelects :
    State.reset.mem.wf = true ∧ State.reset.rdGray = State.reset.wrGrayQ ∧ oneHeld.rdGray ≠ oneHeld.wrGrayQ := by
  decide +kernel

/-- A frame to be enqueued, and the turns it takes. -/
def incoming : State := waiting [.p, .p, .p, .sw (some 1#5), .q, .q] [.frame (encodeEntry e0)] [.tick]

theorem witness_EnqueuedFrameReachesTheApplyEngine :
    CursorInv incoming ∧ held incoming = [] ∧ fullP incoming = false ∧ incoming.mem.wf = true ∧
    incoming.sched = .p :: .p :: .p :: .sw (some (incoming.wrBin + 1#5)) :: .q :: .q :: [] ∧ incoming.pPending = [] ∧
    incoming.pTodo = [] ∧ incoming.qPending = [] ∧
    incoming.pIn = .frame (encodeEntry e0) :: [] ∧ incoming.qTodo = [] ∧ incoming.qIn = .tick :: [] ∧
    e0.body.length = incoming.cfg.n ∧ e0.hdr.messageId ≠ incoming.prevId ∧ commandOf incoming.cfg e0.hdr = .fEnqueue := by
  decide +kernel

/-- For each clause a Header that meets its conditions. -/
theorem witness_FlagsSelectTheCommands :
    (header 5#8 0#8 0x80#8 0#8 []).cpuFlags &&& Config.illustration.cpuMod ≠ 0#8 ∧
    ((header 5#8 0#8 0x20#8 0#8 []).cpuFlags &&& Config.illustration.cpuMod = 0#8 ∧
      (header 5#8 0#8 0x20#8 0#8 []).cpuFlags &&& Config.illustration.cpuConfigSilencer ≠ 0#8) ∧
    (header 5#8 0#8 0#8 0#8 []).cpuFlags &&& Config.illustration.cpuWriteBody = 0#8 ∧
    (header 5#8 0#8 0x11#8 0#8 []).cpuFlags &&& Config.illustration.cpuModDelay ≠ 0#8 ∧
    (header 5#8 0x0C#8 0x01#8 0#8 []).fpgaFlags.zeroExtend 16 &&& Config.illustration.fpgaOpMode ≠ 0#16 ∧
    (header 5#8 0x0C#8 0x01#8 0#8 []).fpgaFlags.zeroExtend 16 &&& Config.illustration.fpgaStmGainMode ≠ 0#16 := by
  decide +kernel

/-- Two commands of a TICK left, and the turns for them. -/
def midTick : State := { waiting [.q, .q] [] [] with qTodo := [.aConfigSilencer, .aHeaderOnly], qBusy := true }

theorem witness_TickAlwaysEnds :
    ActivityInv midTick ∧ ActivityInv { midTick with qTodo := [], qPending := [(.ctrl 0#16, 1#16)] } := by decide +kernel

/-- Frames of the most samples each kind takes. -/
def modFrame (c sz : Byte) : State := applying (entry 5#8 0#8 c sz [1#8, 2#8, 3#8, 4#8, 5#8] [0#16, 0#16, 0#16, 0#16, 0#16])

theorem witness_ModHeadFrameStartsTheStream :
    (modFrame 0xE0#8 120#8).cfg.Valid ∧ (modFrame 0xE0#8 120#8).mem.wf = true ∧
    qHas (modFrame 0xE0#8 120#8) (modFrame 0xE0#8 120#8).cfg.cpuModBegin = true ∧
    (modFrame 0xE0#8 120#8).qStage.hdr.size.toNat ≤ 120 ∧
    qHas (modFrame 0xE0#8 120#8) (modFrame 0xE0#8 120#8).cfg.cpuModEnd = true ∧
    qHas (modFrame 0xC0#8 0#8) (modFrame 0xC0#8 0#8).cfg.cpuModEnd = false :=
  ⟨illustration_valid, by decide +kernel⟩

theorem witness_ModBodyFrameAppends :
    qHas (modFrame 0xA0#8 124#8) (modFrame 0xA0#8 124#8).cfg.cpuModBegin = false ∧
    (modFrame 0xA0#8 124#8).qStage.hdr.size.toNat ≤ 124 ∧ (modFrame 0xA0#8 124#8).modCycle.toNat % 2 = 0 := by
  decide +kernel

theorem witness_DelayFrameCopiesTheBody :
    (applying e0).cfg.Valid ∧ (applying e0).mem.wf = true ∧ (applying e0).qStage.body.length = (applying e0).cfg.n :=
  ⟨illustration_valid, by decide +kernel⟩

/-- A head whose two samples fill the Body. -/
theorem witness_PointHeadFrameStartsTheStream :
    pointHead.cfg.Valid ∧ pointHead.mem.wf = true ∧ qHas pointHead pointHead.cfg.cpuStmBegin = true ∧
    pointHead.qStage.body.length = pointHead.cfg.n ∧ pointHead.qStage.body.head? = some 2#16 ∧
    5 + 4 * (2#16).toNat ≤ pointHead.cfg.n ∧ qHas pointHead pointHead.cfg.cpuStmEnd = true ∧
    qHas { pointHead with qStage := { pointHead.qStage with hdr := header 5#8 0x04#8 0x03#8 0#8 [] } }
      pointHead.cfg.cpuStmEnd = false :=
  ⟨wide_valid, by decide +kernel⟩

/-- A continuation whose one sample fills the Body. -/
def pointBody : State := applying (entry 5#8 0x04#8 0x05#8 0#8 [] [1#16, 9#16, 8#16, 7#16, 6#16])

theorem witness_PointBodyFrameAppends :
    pointBody.cfg.Valid ∧ qHas pointBody pointBody.cfg.cpuStmBegin = false ∧
    pointBody.qStage.body.length = pointBody.cfg.n ∧ pointBody.qStage.body.head? = some 1#16 ∧
    1 + 4 * (1#16).toNat ≤ pointBody.cfg.n :=
  ⟨illustration_valid, by decide +kernel⟩

/-- A gain frame with the given flags, in the given mode. -/
def gainFrame (f c : Byte) (mode : Word) : State :=
  { applying (entry 5#8 f c 0#8 [] [0xABCD#16, 0x1234#16, 3#16, 4#16, 5#16]) with gainMode := mode }

theorem witness_GainHeadFrameSetsTheMode :
    (gainFrame 0x0C#8 0x07#8 0#16).cfg.Valid ∧ (gainFrame 0x0C#8 0x07#8 0#16).mem.wf = true ∧
    qHas (gainFrame 0x0C#8 0x07#8 0#16) (gainFrame 0x0C#8 0x07#8 0#16).cfg.cpuStmBegin = true ∧
    (gainFrame 0x0C#8 0x07#8 0#16).qStage.body.length = (gainFrame 0x0C#8 0x07#8 0#16).cfg.n ∧
    qHas (gainFrame 0x0C#8 0x07#8 0#16) (gainFrame 0x0C#8 0x07#8 0#16).cfg.cpuStmEnd = true ∧
    qHas (gainFrame 0x0C#8 0x03#8 0#16) (gainFrame 0x0C#8 0x03#8 0#16).cfg.cpuStmEnd = false :=
  ⟨illustration_valid, by decide +kernel⟩

theorem witness_GainBodyFrameAdvances :
    qHas (gainFrame 0x0E#8 0x01#8 0x30#16) (gainFrame 0x0E#8 0x01#8 0x30#16).cfg.cpuStmBegin = false := by
  decide +kernel

theorem witness_GainFrameWordsReachTheirSlots :
    (gainFrame 0x0E#8 0x01#8 0x30#16).cfg.Valid ∧ (gainFrame 0x0E#8 0x01#8 0x30#16).mem.wf = true ∧
    qHas (gainFrame 0x0E#8 0x01#8 0x30#16) Config.illustration.cpuStmBegin = false ∧
    qHas (gainFrame 0x0E#8 0x01#8 0x30#16) Config.illustration.cpuStmEnd = false ∧
    (gainFrame 0x0E#8 0x01#8 0x30#16).qStage.body.length = Config.illustration.n ∧
    ((gainFrame 0x0E#8 0x01#8 0x30#16).gainMode = Config.illustration.gdmPhaseHalf ∧
      qLegacy (gainFrame 0x0E#8 0x01#8 0x30#16) = true) ∧
    qHas (gainFrame 0x0C#8 0x01#8 0x10#16) Config.illustration.cpuStmBegin = false ∧
    qHas (gainFrame 0x0C#8 0x01#8 0x10#16) Config.illustration.cpuStmEnd = false ∧
    ((gainFrame 0x0C#8 0x01#8 0x10#16).gainMode = Config.illustration.gdmPhaseDutyFull ∧
      qLegacy (gainFrame 0x0C#8 0x01#8 0x10#16) = false ∧ qIsDuty (gainFrame 0x0C#8 0x01#8 0x10#16) = false) :=
  ⟨illustration_valid, by decide +kernel⟩

/-- One frame for each row of rule R221's encodings. -/
theorem witness_PassBuildersGiveTheListedWords :
    (gainFrame 0x0E#8 0x01#8 0x10#16).qStage.body.length = Config.illustration.n ∧
    (gainFrame 0x0E#8 0x01#8 0x10#16).cycleTab.length = Config.illustration.n ∧
    (gainFrame 0x0E#8 0x01#8 0x10#16).tabOld = none ∧ qLegacy (gainFrame 0x0E#8 0x01#8 0x10#16) = true ∧
    (qLegacy (gainFrame 0x0C#8 0x01#8 0x10#16) = false ∧ qIsDuty (gainFrame 0x0C#8 0x01#8 0x10#16) = false) ∧
    (qLegacy (gainFrame 0x0C#8 0x09#8 0x10#16) = false ∧ qIsDuty (gainFrame 0x0C#8 0x09#8 0x10#16) = true ∧
      Config.illustration.pdfDutyFrameWrites = .phaseOnly) ∧
    ({ Config.illustration with pdfDutyFrameWrites := .dutyOnly } : Params).pdfDutyFrameWrites = .dutyOnly := by
  decide +kernel

/-- Domain P is between F.SYNCHRONIZE and the end of its ARRIVE. -/
def racing : State :=
  { gainFrame 0x0C#8 0x01#8 0x20#16 with tabOld := some [1#16, 2#16, 3#16, 4#16, 5#16] }

theorem witness_CycleTableRaceGivesOldOrNew :
    racing.tabOld = some [1#16, 2#16, 3#16, 4#16, 5#16] ∧ [1#16, 2#16, 3#16, 4#16, 5#16].length = racing.cfg.n ∧
    racing.cycleTab.length = racing.cfg.n ∧ racing.qStage.body.length = racing.cfg.n ∧ qLegacy racing = false ∧
    qIsDuty racing = false := by decide +kernel

theorem witness_MemoryFormAndParametersAreKept :
    (waiting [.q] [] [.wcmd 1#32 (.words [])]).mem.wf = true ∧
    (match step (waiting [.q] [] [.wcmd 1#32 (.words [])]) with | .next t => t.modCycle | _ => 7#32) = 0#32 := by
  decide +kernel

theorem witness_ActivityAndLengthInvariantsAreKept :
    ActivityInv midTick ∧ LengthInv midTick ∧
    (match step midTick with | .next t => t.qTodo | _ => []) = [.aHeaderOnly] := by decide +kernel

theorem witness_PowerOnResetGivesTheListedValues :
    (waiting [.rst true true] [] []).sched = .rst true true :: [] ∧
    (waiting [.rst true false] [] []).sched = .rst true false :: [] ∧
    (waiting [.rst false true] [] []).sched = .rst false true :: [] ∧ AfterPowerOn State.reset := by decide +kernel

theorem witness_DomainsKeepToTheirState :
    (Instr.segBeginMod.agent ≠ .p ∧ after .segBeginMod State.reset (fun t => t.modCycle) = some 0#32) ∧
    (Instr.pNop.agent ≠ .q ∧ after .pNop State.reset (fun t => t.wrBin) = some 0#5) ∧
    ({ beforeClear with qBusy := true } : State).qBusy = true := by decide +kernel

end Sys2Proof.Tests
end

section
/-! The selections inside Layer 2 of 30_encoding.md section 4: the command of a frame by its id (rule R103) and the
commands of a TICK by the flags (rule R104). First the flag tests and one equation for each row of the two maps, then the
statements. -/

namespace Sys2Proof.Selection

open Sys2Proof Sys2Proof.Machine

/-! ## The flag tests as masks (00_scope.md rule R10) -/

@[simp] theorem hasCpu_eq_true {flags m : Byte} : hasCpu flags m = true ↔ flags &&& m ≠ 0#8 := bne_iff_ne

@[simp] theorem hasCpu_eq_false {flags m : Byte} : hasCpu flags m = false ↔ flags &&& m = 0#8 := bne_eq_false_iff_eq

@[simp] theorem hasFpga_eq_true {flags : Byte} {m : Word} :
    hasFpga flags m = true ↔ flags.zeroExtend 16 &&& m ≠ 0#16 := bne_iff_ne

@[simp] theorem hasFpga_eq_false {flags : Byte} {m : Word} :
    hasFpga flags m = false ↔ flags.zeroExtend 16 &&& m = 0#16 := bne_eq_false_iff_eq

section Rows

variable {c : Params} {prev : Byte} {h : Header}

/-! ## The command of a frame (rule R103) -/

theorem dispatch_of_eq_prev (hid : h.messageId = prev) : dispatch c prev h = .fDuplicate := if_pos hid

theorem dispatch_of_ne_prev (hid : h.messageId ≠ prev) : dispatch c prev h = commandOf c h := if_neg hid

theorem commandOf_of_clear (hid : h.messageId = 0x00#8) : commandOf c h = .fClear := by
  rw [commandOf, hid]; rfl

theorem commandOf_of_rdCpuVersion (hid : h.messageId = 0x01#8) : commandOf c h = .fRdCpuVersion := by
  rw [commandOf, hid]; rfl

theorem commandOf_of_rdFpgaVersion (hid : h.messageId = 0x03#8) : commandOf c h = .fRdFpgaVersion := by
  rw [commandOf, hid]; rfl

theorem commandOf_of_rdFpgaFunction (hid : h.messageId = 0x04#8) : commandOf c h = .fRdFpgaFunction := by
  rw [commandOf, hid]; rfl

/-- Past the four ids with a command of their own, `MSG_END` parts the reserved ids from the normal ones. -/
theorem commandOf_of_no_named_id (hid : h.messageId = 0x02#8 ∨ 0x05 ≤ h.messageId.toNat) :
    commandOf c h =
      if Config.msgEnd.ult h.messageId then .fReserved (h.messageId.extractLsb' 0 4)
      else if !hasCpu h.cpuFlags c.cpuMod && hasCpu h.cpuFlags c.cpuConfigSync then .fSynchronize
      else .fEnqueue := by
  have hclear : h.messageId ≠ Config.msgClear := by bv_omega
  have hcpu : h.messageId ≠ Config.msgRdCpuVersion := by bv_omega
  have hfpga : h.messageId ≠ Config.msgRdFpgaVersion := by bv_omega
  have hfunction : h.messageId ≠ Config.msgRdFpgaFunction := by bv_omega
  rw [commandOf, if_neg hclear, if_neg hcpu, if_neg hfpga, if_neg hfunction]

theorem msgEnd_ult_iff {id : Byte} : Config.msgEnd.ult id = true ↔ 0xF1 ≤ id.toNat := by
  simp [BitVec.ult, Nat.succ_le_iff]

theorem commandOf_of_reserved (hid : 0xF1 ≤ h.messageId.toNat) :
    commandOf c h = .fReserved (h.messageId.extractLsb' 0 4) := by
  rw [commandOf_of_no_named_id (.inr (by omega)), if_pos (msgEnd_ult_iff.2 hid)]

/-- The row of the normal ids: only here do the flags of the Header matter. -/
theorem commandOf_of_normal (hid : h.messageId = 0x02#8 ∨ (0x05 ≤ h.messageId.toNat ∧ h.messageId.toNat ≤ 0xF0)) :
    commandOf c h =
      if h.cpuFlags &&& c.cpuMod = 0#8 ∧ h.cpuFlags &&& c.cpuConfigSync ≠ 0#8 then .fSynchronize else .fEnqueue := by
  have hend : ¬ Config.msgEnd.ult h.messageId = true := by
    rw [msgEnd_ult_iff]
    bv_omega
  rw [commandOf_of_no_named_id (hid.imp_right And.left), if_neg hend]
  simp

/-- The index of a reserved id is its low nibble, counted from `MSG_END`. -/
theorem toNat_of_reserved {id : Byte} (hid : 0xF1 ≤ id.toNat) : id.toNat = 0xF0 + (id.extractLsb' 0 4).toNat := by
  have hnibble : (id.extractLsb' 0 4).toNat = id.toNat % 16 := by simp [BitVec.extractLsb'_toNat]
  have := id.isLt
  omega

/-! ## The commands of a TICK (rule R104) -/

theorem headCommand_of_mod (hmod : hasCpu h.cpuFlags c.cpuMod = true) : headCommand c h = [.aWriteMod] := if_pos hmod

theorem headCommand_of_silencer (hmod : hasCpu h.cpuFlags c.cpuMod = false)
    (hsil : hasCpu h.cpuFlags c.cpuConfigSilencer = true) : headCommand c h = [.aConfigSilencer] := by
  rw [headCommand, hmod, hsil]; rfl

theorem headCommand_of_neither (hmod : hasCpu h.cpuFlags c.cpuMod = false)
    (hsil : hasCpu h.cpuFlags c.cpuConfigSilencer = false) : headCommand c h = [] := by
  rw [headCommand, hmod, hsil]; rfl

theorem bodyCommand_of_no_body (hbody : hasCpu h.cpuFlags c.cpuWriteBody = false) : bodyCommand c h = .aHeaderOnly := by
  rw [bodyCommand, hbody]; rfl

theorem bodyCommand_of_delay (hbody : hasCpu h.cpuFlags c.cpuWriteBody = true)
    (hdelay : hasCpu h.cpuFlags c.cpuModDelay = true) : bodyCommand c h = .aModDelay := by
  rw [bodyCommand, hbody, hdelay]; rfl

/-- A Body that holds no delays is the device's: the operating mode of the fpga flags says how it is applied. -/
theorem bodyCommand_of_device_body (hbody : hasCpu h.cpuFlags c.cpuWriteBody = true)
    (hdelay : hasCpu h.cpuFlags c.cpuModDelay = false) :
    bodyCommand c h =
      if !hasFpga h.fpgaFlags c.fpgaOpMode then .aDrive
      else if !hasFpga h.fpgaFlags c.fpgaStmGainMode then .aPointStm
      else .aGainStm := by
  rw [bodyCommand, hbody, hdelay]; rfl

end Rows

/-! ## The statements -/

/-- Settles O34: the duplicate check first, then the switch on the id, row by row. -/
theorem messageIdSelectsTheCommand : Obligations.MessageIdSelectsTheCommand := by
  intro c prev h
  refine ⟨dispatch_of_eq_prev, fun hfresh => ?_⟩
  rw [dispatch_of_ne_prev hfresh]
  refine ⟨commandOf_of_clear, commandOf_of_rdCpuVersion, commandOf_of_rdFpgaVersion, commandOf_of_rdFpgaFunction,
    fun hres => ?_, commandOf_of_normal⟩
  have hindex := toNat_of_reserved hres
  have hne : h.messageId.extractLsb' 0 4 ≠ 0#4 := by
    intro h0
    rw [h0, BitVec.toNat_ofNat] at hindex
    omega
  exact ⟨_, hne, hindex, commandOf_of_reserved hres⟩

/-- Settles O42: the head command by the MOD and silencer flags, the body command by the four flags after them, each in
the order of rule R104. -/
theorem flagsSelectTheCommands : Obligations.FlagsSelectTheCommands := by
  intro c h
  simp only [← hasCpu_eq_true, ← hasCpu_eq_false, ← hasFpga_eq_true, ← hasFpga_eq_false]
  refine ⟨headCommand c h, bodyCommand c h, rfl, headCommand_of_mod, headCommand_of_silencer, headCommand_of_neither,
    bodyCommand_of_no_body, fun hbody => ⟨bodyCommand_of_delay hbody, fun hdelay => ?_⟩⟩
  rw [bodyCommand_of_device_body hbody hdelay]
  refine ⟨fun hdrive => ?_, fun hmode => ⟨fun hpoint => ?_, fun hgain => ?_⟩⟩
  · rw [hdrive]; rfl
  · rw [hmode, hpoint]; rfl
  · rw [hmode, hgain]; rfl

end Sys2Proof.Selection
end

section
/-! The mailbox of 40_mailbox.md: its Gray code, what each of its operations answers, the moves of the two cursors that a
step can make, and the fairness of the synchronisers (rule R133). -/

namespace Sys2Proof.Mailbox

open Sys2Proof Sys2Proof.Machine

/-! ## The Gray code (rules R121 and R122) -/

/-- One advance of a cursor, the wrap included, changes one bit of its code. -/
theorem gray5_xor_gray5_succ (b : Cursor) : ∃ i : Fin 5, gray5 b ^^^ gray5 (b + 1#5) = 1#5 <<< i.val := by
  revert b
  decide

/-- Settles O9: the two codings undo one another, an advance changes one bit, and the codes are those of the table. -/
theorem grayCodeChangesOneBit : Obligations.GrayCodeChangesOneBit :=
  ⟨fun b => ⟨ungray5_gray5 b, gray5_ungray5 b, rfl, gray5_xor_gray5_succ b⟩, by decide⟩

/-! ## What the operations of the mailbox answer -/

theorem exec_mbxPush (e : Entry) (s : State) : exec (.mbxPush e) s = .next (pushEntry e s) := rfl

theorem exec_mbxPop (s : State) : exec .mbxPop s = .next (popEntry s) := rfl

theorem exec_mbxClr (s : State) :
    exec .mbxClr s = .next (if s.qBusy then holdP .mbxClr s else clearMailbox s) := rfl

theorem exec_sw (k : Option Cursor) (s : State) : exec (.sw k) s = .next (syncWrite k s) := rfl

theorem exec_sr (k : Option Cursor) (s : State) : exec (.sr k) s = .next (syncRead k s) := rfl

theorem exec_fClear (s : State) : exec .fClear s = .next (if s.qBusy then holdP .fClear s else globalClear s) := rfl

/-- `full_p` compares codes (10_state.md rule R25). -/
theorem fullP_eq_true {s : State} : fullP s = true ↔ gray5 (s.wrBin + 1#5) = s.rdGrayP := beq_iff_eq

theorem fullP_eq_false {s : State} : fullP s = false ↔ gray5 (s.wrBin + 1#5) ≠ s.rdGrayP := beq_eq_false_iff_ne

/-- `empty_q` compares codes (10_state.md rule R25). -/
theorem emptyQ_eq_true {s : State} : emptyQ s = true ↔ s.rdGray = s.wrGrayQ := beq_iff_eq

theorem emptyQ_eq_false {s : State} : emptyQ s = false ↔ s.rdGray ≠ s.wrGrayQ := beq_eq_false_iff_ne

/-- Settles O10: the two arms of rule R123. -/
theorem pushStoresAndAdvances : Obligations.PushStoresAndAdvances := by
  intro e s
  rw [exec_mbxPush]
  obtain ⟨hfull, hpush⟩ | ⟨hroom, hpush⟩ := pushEntry_cases e s
  · rw [hpush]
    exact ⟨fun _ => rfl, fun hne => absurd (fullP_eq_true.1 hfull) hne⟩
  · rw [hpush]
    exact ⟨fun heq => absurd heq (fullP_eq_false.1 hroom), fun _ => rfl⟩

/-- Settles O11: the two arms of rule R124. -/
theorem popCopiesAndAdvances : Obligations.PopCopiesAndAdvances := by
  intro s
  rw [exec_mbxPop]
  obtain ⟨hempty, hpop⟩ | ⟨hseen, hpop⟩ := popEntry_cases s
  · rw [hpop]
    exact ⟨fun _ => rfl, fun hne => absurd (emptyQ_eq_true.1 hempty) hne⟩
  · rw [hpop]
    exact ⟨fun heq => absurd heq (emptyQ_eq_false.1 hseen), fun _ => rfl⟩

/-- Settles O13: a sample is always a member of the path, and one that the environment names on the path is taken. -/
theorem synchronisersKeepToTheirPath : Obligations.SynchronisersKeepToTheirPath := by
  intro s k
  refine ⟨⟨_, syncSample_onPath _ _ k s.draws, exec_sw k s⟩, fun v hv => ?_,
    ⟨_, syncSample_onPath _ _ k s.draws, exec_sr k s⟩, fun v hv => ?_⟩
  · rw [exec_sw, syncWrite, syncSample_named _ _ v _ hv]
  · rw [exec_sr, syncRead, syncSample_named _ _ v _ hv]

/-- Settles O15: the two arms of rule R128 by `q_busy`. -/
theorem mailboxClearIsOneTransition : Obligations.MailboxClearIsOneTransition := by
  intro s
  refine ⟨fun hidle => ?_, fun hbusy => ?_⟩
  · rw [exec_mbxClr, if_neg (Bool.eq_false_iff.1 hidle)]
    rfl
  · rw [exec_mbxClr, if_pos hbusy]
    rfl

/-- Settles O16: each of the six meanings answers the state it was given. -/
theorem emptyOperationsChangeNothing : Obligations.EmptyOperationsChangeNothing :=
  fun _ _ => ⟨rfl, rfl, rfl, rfl, rfl, rfl⟩

/-! ## The moves of the cursors -/

/-- One cursor of the mailbox: the counter, its code, and the code the other domain sees (10_state.md rules R26 to R28). -/
structure CursorSide where
  bin : Cursor
  gray : Cursor
  seen : Cursor

/-- The two cursors. -/
structure Cursors where
  write : CursorSide
  read : CursorSide

/-- The cursor registers of a state. -/
def cursors (s : State) : Cursors :=
  { write := { bin := s.wrBin, gray := s.wrGray, seen := s.wrGrayQ }
    read := { bin := s.rdBin, gray := s.rdGray, seen := s.rdGrayP } }

/-- One advance in the cursor's own domain (rules R123 and R124). -/
def CursorSide.advance (c : CursorSide) : CursorSide := { c with bin := inc5 c.bin, gray := gray5 (inc5 c.bin) }

/-- A synchroniser's step to the sample `v` (rule R127). -/
def CursorSide.sync (c : CursorSide) (v : Cursor) : CursorSide := { c with seen := gray5 v }

/-- A cursor after a clear or a reset (rule R128, 10_state.md rule R50). -/
def CursorSide.zero : CursorSide := { bin := 0#5, gray := 0#5, seen := 0#5 }

/-- What one operation or one step can do to the cursors. -/
inductive Cursors.Moves : Cursors → Cursors → Prop
  | stay (c : Cursors) : Moves c c
  | push (c : Cursors) (hroom : gray5 (inc5 c.write.bin) ≠ c.read.seen) : Moves c { c with write := c.write.advance }
  | pop (c : Cursors) (hseen : c.read.gray ≠ c.write.seen) : Moves c { c with read := c.read.advance }
  | sw (c : Cursors) (v : Cursor) (hv : onPath (ungray5 c.write.seen) c.write.bin v = true) :
      Moves c { c with write := c.write.sync v }
  | sr (c : Cursors) (v : Cursor) (hv : onPath (ungray5 c.read.seen) c.read.bin v = true) :
      Moves c { c with read := c.read.sync v }
  | clear (c : Cursors) : Moves c { write := .zero, read := .zero }

theorem Cursors.Moves.of_eq {c d : Cursors} (h : d = c) : c.Moves d := h ▸ .stay c

theorem pushEntry_moves (e : Entry) (s : State) : (cursors s).Moves (cursors (pushEntry e s)) := by
  obtain ⟨-, h⟩ | ⟨hroom, h⟩ := pushEntry_cases e s
  · rw [h]
    exact .stay _
  · rw [h]
    exact .push _ (fullP_eq_false.1 hroom)

theorem popEntry_moves (s : State) : (cursors s).Moves (cursors (popEntry s)) := by
  obtain ⟨-, h⟩ | ⟨hseen, h⟩ := popEntry_cases s
  · rw [h]
    exact .stay _
  · rw [h]
    exact .pop _ (emptyQ_eq_false.1 hseen)

/-- A TICK moves the cursors as its pop does (45_dispatch_apply.md rule R240). -/
theorem startTick_moves (s : State) : (cursors s).Moves (cursors (startTick s)) := by
  obtain ⟨-, h⟩ | ⟨hseen, _, _, -, h, -⟩ := startTick_cases s
  · rw [h]
    exact .stay _
  · rw [h]
    exact .pop _ (emptyQ_eq_false.1 hseen)

/-- An attempt of the retry loop moves the cursors as its push does (rule R134). -/
theorem enqAttempt_moves {s t : State} (h : enqAttempt s = .next t) : (cursors s).Moves (cursors t) := by
  obtain ⟨-, h'⟩ | ⟨-, -, h'⟩ | ⟨-, -, h'⟩ := enqAttempt_cases s
  all_goals
    rw [h'] at h
    cases h
  · exact pushEntry_moves s.pStage s
  · exact .stay _

theorem globalClear_cursors (s : State) : cursors (globalClear s) = { write := .zero, read := .zero } := by
  obtain ⟨_, _, h, -⟩ := globalClear_shape s
  rw [h]
  rfl

theorem synchronize_cursors (s : State) : cursors (synchronize s) = cursors s := by
  obtain ⟨_, _, h, -⟩ := synchronize_shape s
  rw [h]
  rfl

theorem updateAck_cursors (s : State) : cursors (updateAck s) = cursors s := by
  obtain ⟨_, _, _, _, h⟩ := updateAck_shape s
  rw [h]
  rfl

theorem arriveFrame_cursors (e : Entry) (s : State) : cursors (arriveFrame e s) = cursors s := by
  obtain ⟨-, h⟩ | ⟨-, h⟩ := arriveFrame_cases e s <;> rw [h] <;> rfl

theorem setCycle_cursors (ch : Channel) (c : Count) (s : State) : cursors (ch.setCycle c s) = cursors s := by
  cases ch <;> rfl

theorem bramWrites_cursors (d : Domain) (ws : List (Loc × Word)) (s : State) :
    cursors (bramWrites d ws s) = cursors s := by
  obtain ⟨_, _, h, -⟩ := bramWrites_shape d ws s
  rw [h]
  rfl

theorem segBegin_cursors (ch : Channel) (s : State) : cursors (segBegin ch s) = cursors s := setCycle_cursors ch 0#32 s

theorem segWrite_cursors {ch : Channel} {n : BitVec 16} {src : List Word} {s t : State}
    (h : segWrite ch n src s = .next t) : cursors t = cursors s := by
  obtain ⟨_, _, rfl, -⟩ := segWrite_shape _ _ _ _ _ h
  exact setCycle_cursors ch _ s

theorem segWriteGain_cursors {m : BitVec 16} {passes : List Pass} {s t : State}
    (h : segWriteGain m passes s = .next t) : cursors t = cursors s := by
  obtain ⟨_, _, rfl, -⟩ := segWriteGain_shape _ _ _ _ h
  rfl

theorem execAWriteMod_cursors {s t : State} (h : execAWriteMod s = .next t) : cursors t = cursors s := by
  obtain ⟨_, _, rfl, -⟩ := execAWriteMod_shape _ _ h
  rfl

theorem execAPointStm_cursors {s t : State} (h : execAPointStm s = .next t) : cursors t = cursors s := by
  obtain ⟨_, _, rfl, -⟩ := execAPointStm_shape _ _ h
  rfl

theorem execAGainStm_cursors {s t : State} (h : execAGainStm s = .next t) : cursors t = cursors s := by
  obtain ⟨_, _, _, _, _, _, rfl, -⟩ := execAGainStm_shape _ _ h
  rfl

/-- Every operation: a push, a pop, a synchroniser's step or a clear moves the cursors, the others leave them. -/
theorem exec_moves {i : Instr} {s t : State} (h : exec i s = .next t) : (cursors s).Moves (cursors t) := by
  cases i with
  | mbxPush e =>
    cases h
    exact pushEntry_moves e s
  | mbxPop =>
    cases h
    exact popEntry_moves s
  | tick =>
    cases h
    exact startTick_moves s
  | enq => exact enqAttempt_moves h
  | fEnqueue => exact enqAttempt_moves (s := { s with pTries := 0 }) h
  | sw k =>
    cases h
    exact .sw _ _ (syncSample_onPath _ _ k s.draws)
  | sr k =>
    cases h
    exact .sr _ _ (syncSample_onPath _ _ k s.draws)
  | mbxClr =>
    rw [exec_mbxClr] at h
    cases h
    split
    · exact .stay _
    · exact .clear _
  | fClear =>
    rw [exec_fClear] at h
    cases h
    split
    · exact .stay _
    · rw [globalClear_cursors]
      exact .clear _
  | arrive e =>
    cases h
    exact .of_eq (arriveFrame_cursors e s)
  | fSynchronize =>
    cases h
    exact .of_eq (synchronize_cursors s)
  | ackUpdate =>
    cases h
    exact .of_eq (updateAck_cursors s)
  | segBeginMod | segBeginPstm | segBeginGstm =>
    cases h
    exact .of_eq (segBegin_cursors _ s)
  | segWriteMod n src | segWritePstm n src => exact .of_eq (segWrite_cursors h)
  | segWriteGstm m passes => exact .of_eq (segWriteGain_cursors h)
  | aWriteMod => exact .of_eq (execAWriteMod_cursors h)
  | aPointStm => exact .of_eq (execAPointStm_cursors h)
  | aGainStm => exact .of_eq (execAGainStm_cursors h)
  | aConfigSilencer | aModDelay | aDrive =>
    cases h
    exact .of_eq (bramWrites_cursors .q _ s)
  | pNop | cNop | wNop | segEndMod | segEndPstm | segEndGstm | segReset | fDuplicate | fRdCpuVersion | fRdFpgaVersion
  | fRdFpgaFunction | fReserved k | ackEmit | aHeaderOnly | gPhaseDutyFull | gPhaseFull | gPhaseHalf =>
    cases h
    exact .stay _

/-- Taking the turn and the operation moves no cursor. -/
theorem fetch_run_cursors {s u : State} {who : Agent} {i : Instr} (h : fetch s = .run who i u) :
    cursors u = cursors s := by
  obtain ⟨-, -, _, _, -, rfl⟩ | ⟨-, -, _, _, -, rfl⟩ | ⟨-, -, -, _, _, _, -, -, rfl⟩ |
    ⟨-, -, -, -, _, _, _, -, -, rfl⟩ | ⟨-, _, _, -, rfl⟩ | ⟨-, _, _, -, rfl⟩ | ⟨-, -, _, _, rfl⟩ := fetch_run s u who i h
  all_goals rfl

theorem fetch_rendezvous_cursors {s u : State} {c : Instr} (h : fetch s = .rendezvous c u) :
    cursors u = cursors s := by
  obtain ⟨-, -, -, -, -, _, _, _, -, -, -, ⟨_, -, rfl⟩ | ⟨-, _, _, -, -, rfl⟩⟩ := fetch_rendezvous s u c h
  all_goals rfl

theorem endOfTick_cursors (s : State) : cursors (endOfTick s) = cursors s := by simp [cursors]

theorem endTurn_cursors (who : Agent) (i : Instr) (s t : State) : cursors (endTurn who i s t) = cursors t := by
  obtain ⟨_, _, _, _, _, h, -⟩ := endTurn_shape who i s t
  rw [h]
  rfl

/-- A turn that runs no operation leaves the cursors, but for the power-on reset. -/
theorem fetch_quiet_moves {s t : State} (h : fetch s = .quiet t) : (cursors s).Moves (cursors t) := by
  obtain ⟨_, rfl⟩ | ⟨_, rfl⟩ | ⟨_, _, _, _, -, rfl⟩ | ⟨_, _, _, _, -, rfl⟩ := fetch_quiet s t h
  · exact .stay _
  · exact .clear _
  · exact .stay _
  · exact .of_eq (endOfTick_cursors _)

/-- What a step can do to the cursors. -/
theorem step_moves {s t : State} (h : step s = .next t) : (cursors s).Moves (cursors t) := by
  obtain hquiet | ⟨who, i, u, v, hrun, hexec, rfl⟩ | ⟨c, u, hrdv, hexec⟩ := (step_next s t).1 h
  · exact fetch_quiet_moves hquiet
  · rw [← fetch_run_cursors hrun, endTurn_cursors]
    exact exec_moves hexec
  · rw [← fetch_rendezvous_cursors hrdv]
    exact exec_moves (s := segResetCounters u) hexec

/-! ## One cursor and its crossing -/

/-- What a step can do to one cursor. -/
inductive CursorSide.Moves : CursorSide → CursorSide → Prop
  | stay (c : CursorSide) : Moves c c
  | advance (c : CursorSide) : Moves c c.advance
  | sync (c : CursorSide) (v : Cursor) (hv : onPath (ungray5 c.seen) c.bin v = true) : Moves c (c.sync v)
  | clear (c : CursorSide) : Moves c .zero

theorem Cursors.Moves.write {c d : Cursors} (h : c.Moves d) : c.write.Moves d.write := by
  cases h with
  | stay | pop | sr => exact .stay _
  | push => exact .advance _
  | sw v hv => exact .sync _ v hv
  | clear => exact .clear _

theorem Cursors.Moves.read {c d : Cursors} (h : c.Moves d) : c.read.Moves d.read := by
  cases h with
  | stay | push | sw => exact .stay _
  | pop => exact .advance _
  | sr v hv => exact .sync _ v hv
  | clear => exact .clear _

/-- The code register holds the code of the counter (invariant (a) of rule R130, for one cursor). -/
def CursorSide.Coded (c : CursorSide) : Prop := c.gray = gray5 c.bin

theorem CursorSide.Moves.coded {c d : CursorSide} (h : c.Moves d) (hc : c.Coded) : d.Coded := by
  cases h with
  | stay | sync => exact hc
  | advance => rfl
  | clear => rfl

/-- The path from a cursor to itself has one member. -/
theorem onPath_self {a v : Cursor} (h : onPath a a v = true) : v = a := by
  have hsplit := onPath_split a a v h
  simp only [dist_eq] at hsplit
  have := cursor_lt a
  have := cursor_lt v
  apply BitVec.eq_of_toNat_eq
  omega

/-- Once the other domain sees a cursor that keeps its code, it goes on seeing it: the path of its synchroniser has one
member left. -/
theorem CursorSide.Moves.seen_eq_gray {c d : CursorSide} (h : c.Moves d) (hc : c.Coded) (hseen : c.seen = c.gray)
    (hkeep : d.gray = c.gray) : d.seen = c.gray := by
  cases h with
  | stay | advance => exact hseen
  | sync v hv =>
    rw [hseen, hc, ungray5_gray5] at hv
    rw [hc, ← onPath_self hv]
    rfl
  | clear => exact hkeep

section Runs

variable {c : Nat → CursorSide}

theorem coded_of_moves (hmoves : ∀ n, (c n).Moves (c (n + 1))) (h0 : (c 0).Coded) (n : Nat) : (c n).Coded := by
  induction n with
  | zero => exact h0
  | succ n ih => exact (hmoves n).coded ih

/-- A cursor whose code stays, and whose synchroniser reaches the far end of its path again and again, comes to be seen and
stays seen: the first far end reached is the code itself, and no later move loses it. -/
theorem seen_of_gray_stays (hmoves : ∀ n, (c n).Moves (c (n + 1))) (h0 : (c 0).Coded)
    (hfair : ∀ n, ∃ m, n ≤ m ∧ (c (m + 1)).seen = gray5 (c m).bin) {n : Nat}
    (hstays : ∀ m, n ≤ m → (c m).gray = (c n).gray) : ∃ k, n ≤ k ∧ ∀ m, k ≤ m → (c m).seen = (c n).gray := by
  have hcoded := coded_of_moves hmoves h0
  obtain ⟨k, hk, hreach⟩ := hfair n
  refine ⟨k + 1, by omega, fun m hm => ?_⟩
  induction m, hm using Nat.le_induction with
  | base => rw [hreach, ← hcoded k, hstays k hk]
  | succ m hm ih =>
    have hgray : (c m).gray = (c n).gray := hstays m (by omega)
    have hgray' : (c (m + 1)).gray = (c n).gray := hstays (m + 1) (by omega)
    rw [(hmoves m).seen_eq_gray (hcoded m) (ih.trans hgray.symm) (hgray'.trans hgray.symm), hgray]

end Runs

/-- Between two states of a run lies one step; what the environment adds holds no cursor. -/
theorem isRun_moves {ρ : Nat → State} (h : IsRun ρ) (n : Nat) : (cursors (ρ n)).Moves (cursors (ρ (n + 1))) := by
  obtain ⟨t, hstep, hnext⟩ := h n
  have hcursors : cursors (ρ (n + 1)) = cursors t := by
    rw [hnext]
    rfl
  rw [hcursors]
  exact step_moves hstep

/-- Settles O14: each cursor of a fair run is one whose synchroniser reaches the far end again and again. -/
theorem seenCursorsCatchUp : Obligations.SeenCursorsCatchUp := by
  rintro ρ ⟨hrun, hfair⟩ ⟨hwr, hrd, -⟩ n
  refine ⟨fun hstays => ?_, fun hstays => ?_⟩
  · refine seen_of_gray_stays (c := fun n => (cursors (ρ n)).write) (fun n => (isRun_moves hrun n).write) hwr
      (fun n => ?_) hstays
    obtain ⟨⟨m, hm, -, hreach⟩, -, -⟩ := hfair n
    exact ⟨m, hm, hreach⟩
  · refine seen_of_gray_stays (c := fun n => (cursors (ρ n)).read) (fun n => (isRun_moves hrun n).read) hrd
      (fun n => ?_) hstays
    obtain ⟨-, ⟨m, hm, -, hreach⟩, -⟩ := hfair n
    exact ⟨m, hm, hreach⟩

end Sys2Proof.Mailbox
end

section
/-! The ring writer of 41_ring_writer.md: what SEG.BEGIN and SEG.END leave in a register of the device, and SEG.WRITE of a
channel that splits as one list of device writes (rule R155), the units written out by index (42_mod_writer.md rule R182,
43_point_writer.md rule R197). -/

namespace Sys2Proof.RingWriter

open Sys2Proof Sys2Proof.Machine

/-! ## One write to a register of region CTRL -/

section Register

variable {s : State} (d : Domain) (a v : Word)

theorem ctrlReg_bramWrite_same (h : s.mem.wf = true) : (bramWrite d (.ctrl a) v s).ctrlReg a = v :=
  readWord_writeWord_same s.mem (ctrlAddr a) v h

theorem sameBytesOutside_bramWrite_ctrl (h : s.mem.wf = true) :
    SameBytesOutside s (bramWrite d (.ctrl a) v s) (regBytes a) := by
  intro x hx
  obtain ⟨hlo, hhi⟩ : x ≠ ctrlAddr a ∧ x ≠ ctrlAddr a + 1 := by simpa [regBytes] using hx
  have hread : (bramWrite d (.ctrl a) v s).mem.readByte x = _ := readByte_writeWord s.mem (ctrlAddr a) x v h
  rw [hread, if_neg hhi, if_neg hlo]

end Register

/-! ## SEG.BEGIN and SEG.END (rules R157 and R158) -/

section BeginEnd

variable {s : State} (ch : Channel)

theorem segBegin_baseReg (h : s.mem.wf = true) : (segBegin ch s).ctrlReg (ch.baseReg s.cfg) = 0#16 :=
  ctrlReg_bramWrite_same (s := ch.setCycle 0#32 s) .q _ _ (by simpa using h)

theorem segBegin_sameBytesOutside (h : s.mem.wf = true) :
    SameBytesOutside s (segBegin ch s) (regBytes (ch.baseReg s.cfg)) := by
  have hframe := sameBytesOutside_bramWrite_ctrl (s := ch.setCycle 0#32 s) .q (ch.baseReg s.cfg) 0#16 (by simpa using h)
  simpa [SameBytesOutside, segBegin] using hframe

/-- A counter of 0 lies in segment 0. -/
theorem segBegin_baseTracks (h : s.mem.wf = true) : BaseTracks ch (segBegin ch s) := by
  have hcfg : (segBegin ch s).cfg = s.cfg := by simp [segBegin]
  have hcycle : ch.cycle (segBegin ch s) = 0#32 := by cases ch <;> rfl
  left
  rw [hcfg, hcycle, segBegin_baseReg ch h, baseOf_eq]
  simp

theorem segEnd_lenReg (h : s.mem.wf = true) : (segEnd ch s).ctrlReg (ch.lenReg s.cfg) = lengthOf (ch.cycle s) :=
  ctrlReg_bramWrite_same .q _ _ h

theorem segEnd_sameBytesOutside (h : s.mem.wf = true) :
    SameBytesOutside s (segEnd ch s) (regBytes (ch.lenReg s.cfg)) :=
  sameBytesOutside_bramWrite_ctrl .q _ _ h

end BeginEnd

theorem exec_segBeginMod (s : State) : exec .segBeginMod s = .next (segBegin .mod s) := rfl

/-- `PSTM` and `GSTM` share the counter and the registers (rule R151). -/
theorem exec_segBegin_streaming {i : Instr} (h : i = .segBeginPstm ∨ i = .segBeginGstm) (s : State) :
    exec i s = .next (segBegin .pstm s) := by
  obtain rfl | rfl := h
  · rfl
  · rfl

theorem exec_segEndMod (s : State) : exec .segEndMod s = .next (segEnd .mod s) := rfl

theorem exec_segEnd_streaming {i : Instr} (h : i = .segEndPstm ∨ i = .segEndGstm) (s : State) :
    exec i s = .next (segEnd .pstm s) := by
  obtain rfl | rfl := h
  · rfl
  · rfl

theorem exec_segReset (s : State) : exec .segReset s = .next (segResetCounters s) := rfl

theorem exec_segWriteMod (n : BitVec 16) (src : List Word) (s : State) :
    exec (.segWriteMod n src) s = segWrite .mod n src s := rfl

theorem exec_segWritePstm (n : BitVec 16) (src : List Word) (s : State) :
    exec (.segWritePstm n src) s = segWrite .pstm n src s := rfl

/-- Settles O21: one write of 0 to the segment-base register; the two streaming forms are one operation. -/
theorem segBeginClearsCounterAndBase : Obligations.SegBeginClearsCounterAndBase := by
  intro s hwf
  refine ⟨⟨segBegin .mod s, exec_segBeginMod s, rfl, ?_⟩, fun i hi =>
    ⟨segBegin .pstm s, exec_segBegin_streaming hi s, rfl, ?_⟩⟩
  · exact ⟨segBegin_baseReg .mod hwf, segBegin_baseTracks .mod hwf, segBegin_sameBytesOutside .mod hwf⟩
  · exact ⟨segBegin_baseReg .pstm hwf, segBegin_baseTracks .pstm hwf, segBegin_sameBytesOutside .pstm hwf⟩

/-- Settles O22: one write to the length register, whose value as arithmetic is `lengthOf_eq`. -/
theorem segEndWritesLength : Obligations.SegEndWritesLength := by
  intro s hwf
  simp only [← lengthOf_eq]
  refine ⟨⟨segEnd .mod s, exec_segEndMod s, rfl, ?_⟩, fun i hi => ⟨segEnd .pstm s, exec_segEnd_streaming hi s, rfl, ?_⟩⟩
  · exact ⟨segEnd_lenReg .mod hwf, segEnd_sameBytesOutside .mod hwf⟩
  · exact ⟨segEnd_lenReg .pstm hwf, segEnd_sameBytesOutside .pstm hwf⟩

/-- Settles O23: the meaning writes the two counters and `w_done`, and no device word. -/
theorem segResetSetsCounters : Obligations.SegResetSetsCounters := exec_segReset

/-! ## SEG.WRITE as one list of device writes (rule R155) -/

/-- The write of the segment-base register for a counter value. -/
def baseWrite (ch : Channel) (c : Params) (cycle : Count) : Loc × Word := (.ctrl (ch.baseReg c), ch.baseOf cycle)

/-- The write of the lazy rebase, if it is due (`lazyRebase_eq`). -/
def rebaseWrites (ch : Channel) (c : Params) (cycle : Count) : List (Loc × Word) :=
  if ch.off cycle = 0 ∧ cycle ≠ 0#32 then [baseWrite ch c cycle] else []

/-- The writes of the fits arm, and of the straddle arm: tail, base register, head (`writeUnits_eq`). -/
def armWrites (ch : Channel) (c : Params) (cycle : Count) (n : Nat) (src : List Word) : List (Loc × Word) :=
  if n ≤ ch.cap cycle then putUnits ch (ch.off cycle) n src
  else
    putUnits ch (ch.off cycle) (ch.cap cycle) src ++
      [baseWrite ch c (cycle + BitVec.ofNat 32 (ch.cap cycle))] ++
      putUnits ch 0 (n - ch.cap cycle) (dropUnits ch (ch.cap cycle) src)

section Lists

variable (ch : Channel) (n : BitVec 16) (src : List Word) (s : State)

theorem writeBase_eq (cycle : Count) : writeBase ch cycle s = bramWrites .q [baseWrite ch s.cfg cycle] s := rfl

theorem lazyRebase_eq : lazyRebase ch s = bramWrites .q (rebaseWrites ch s.cfg (ch.cycle s)) s := by
  unfold lazyRebase rebaseWrites
  split <;> rfl

/-- No device write looks at a counter. -/
theorem bramWrites_setCycle (d : Domain) (c : Count) (ws : List (Loc × Word)) :
    bramWrites d ws (ch.setCycle c s) = ch.setCycle c (bramWrites d ws s) := by
  induction ws generalizing s with
  | nil => rfl
  | cons w ws ih =>
    have hone : bramWrite d w.1 w.2 (ch.setCycle c s) = ch.setCycle c (bramWrite d w.1 w.2 s) := by cases ch <;> rfl
    rw [bramWrites_cons, hone, ih, bramWrites_cons]

theorem setCycle_setCycle (b c : Count) : ch.setCycle c (ch.setCycle b s) = ch.setCycle c s := by cases ch <;> rfl

theorem writeUnits_eq (m : Nat) :
    writeUnits ch m src s = ch.setCycle (ch.cycle s + BitVec.ofNat 32 m)
      (bramWrites .q (armWrites ch s.cfg (ch.cycle s) m src) s) := by
  unfold writeUnits armWrites
  by_cases hfits : m ≤ ch.cap (ch.cycle s)
  · simp only [if_pos hfits, Config.cycleBits]
  · have hsum : ch.cycle s + BitVec.ofNat 32 (ch.cap (ch.cycle s)) + BitVec.ofNat 32 (m - ch.cap (ch.cycle s)) =
        ch.cycle s + BitVec.ofNat 32 m := by
      rw [BitVec.add_assoc, ← BitVec.ofNat_add, Nat.add_sub_cancel' (Nat.le_of_not_le hfits)]
    simp only [if_neg hfits, Config.cycleBits, writeBase_eq, setCycle_cfg, bramWrites_cfg, bramWrites_setCycle,
      setCycle_setCycle, bramWrites_append, hsum]

/-- A write that passes the checks makes the rebase if it is due, then its arm's writes. -/
theorem segWrite_of_listed (hroom : n.toNat ≤ ch.cap (ch.cycle s) + ch.size) (hn : n ≠ 0#16)
    (heven : ¬(ch = .mod ∧ (ch.cycle s).getLsbD 0 = true)) :
    segWrite ch n src s = .next (writerDone (ch.setCycle (ch.cycle s + n.zeroExtend 32)
      (bramWrites .q (rebaseWrites ch s.cfg (ch.cycle s) ++ armWrites ch s.cfg (ch.cycle s) n.toNat src) s))) := by
  rw [segWrite_next]
  refine ⟨hroom, .inr ⟨hn, heven, ?_⟩⟩
  rw [writeUnits_eq, lazyRebase_eq, bramWrites_append, bramWrites_cfg, cycle_bramWrites,
    BitVec.zeroExtend_eq_setWidth, ← BitVec.ofNat_toNat]

/-- More units than the room and one segment (rule R161). -/
theorem segWrite_of_overrun (hover : ch.cap (ch.cycle s) + ch.size < n.toNat) :
    segWrite ch n src s = .fault (.segOverrun ch (ch.cycle s) n) :=
  (segWrite_fault ch n src s _).2 (.inl ⟨hover, rfl⟩)

theorem segWrite_zero : segWrite ch 0#16 src s = .next (writerDone s) :=
  (segWrite_next ch 0#16 src s _).2 ⟨Nat.zero_le _, .inl ⟨rfl, rfl⟩⟩

/-- Samples at an odd counter (42_mod_writer.md rule R186). -/
theorem segWrite_mod_of_odd (hroom : n.toNat ≤ Channel.mod.cap s.modCycle + Channel.mod.size) (hn : n ≠ 0#16)
    (hodd : s.modCycle.getLsbD 0 = true) : segWrite .mod n src s = .fault (.modOddOffset s.modCycle n) :=
  (segWrite_fault .mod n src s _).2 (.inr ⟨hroom, hn, ⟨rfl, hodd⟩, rfl⟩)

end Lists

theorem getLsbD_zero_eq_true {w : Nat} {c : BitVec w} : c.getLsbD 0 = true ↔ c.toNat % 2 = 1 := by
  simp [BitVec.getLsbD]

/-! ## The values of the segment-base register -/

theorem rebaseWrites_eq (ch : Channel) (c : Params) (cycle : Count) :
    rebaseWrites ch c cycle =
      if cycle.toNat % ch.size = 0 ∧ cycle ≠ 0#32 then
        [(.ctrl (ch.baseReg c), BitVec.ofNat 16 (cycle.toNat / ch.size))] else [] := by
  rw [rebaseWrites, baseWrite, off_eq, baseOf_eq]

/-- At the end of the room the register takes the next segment, 0 again after the last one of the counter. -/
theorem baseOf_boundary (ch : Channel) (cycle : Count) :
    ch.baseOf (cycle + BitVec.ofNat 32 (ch.cap cycle)) =
      BitVec.ofNat 16 ((cycle.toNat / ch.size + 1) % 2 ^ (32 - ch.k)) := by
  have hlt := cycle.isLt
  have hsum : (cycle + BitVec.ofNat 32 (ch.cap cycle)).toNat =
      (cycle.toNat + (ch.size - cycle.toNat % ch.size)) % 2 ^ 32 := by simp [cap_eq]
  rw [baseOf_eq, hsum]
  congr 1
  cases ch <;> simp only [size_mod, size_pstm, size_gstm, Channel.k, Config.kMod, Config.kPstm, Config.kGstm] <;> omega

/-! ## The units by index -/

/-- The writes of a copy, where `place` numbers the locations of a region. -/
theorem copyTo_take (place : Nat → Loc) (hplace : ∀ a, (place a).next = place (a + 1)) (a m : Nat) (src : List Word)
    (h : m ≤ src.length) :
    copyTo (place a) (src.take m) = (List.range m).map fun j => (place (a + j), src.getD j 0#16) := by
  induction m generalizing a src with
  | zero => simp [copyTo]
  | succ m ih =>
    cases src with
    | nil => simp at h
    | cons v vs =>
      rw [List.take_succ_cons, copyTo, hplace, ih (a + 1) vs (by simpa using h), List.range_succ_eq_map]
      simp [Nat.add_right_comm, Nat.add_assoc]

theorem next_modt (a : Nat) : (Loc.modt (BitVec.ofNat 14 a)).next = .modt (BitVec.ofNat 14 (a + 1)) := by
  rw [BitVec.ofNat_add]
  rfl

theorem next_stmt (a : Nat) : (Loc.stmt (BitVec.ofNat 14 a)).next = .stmt (BitVec.ofNat 14 (a + 1)) := by
  rw [BitVec.ofNat_add]
  rfl

/-- The samples, one word for two (42_mod_writer.md rule R182). -/
theorem putUnits_mod (off m : Nat) (src : List Word) (h : (m + 1) / 2 ≤ src.length) :
    putUnits .mod off m src = (List.range ((m + 1) / 2)).map fun j =>
      (.modt (BitVec.ofNat 14 (off / 2 + j)), src.getD j 0#16) :=
  copyTo_take (fun a => .modt (BitVec.ofNat 14 a)) next_modt (off / 2) ((m + 1) / 2) src h

theorem putUnits_mod_dropUnits (m cap : Nat) (src : List Word) (h : cap / 2 + (m + 1) / 2 ≤ src.length) :
    putUnits .mod 0 m (dropUnits .mod cap src) = (List.range ((m + 1) / 2)).map fun j =>
      (.modt (BitVec.ofNat 14 j), src.getD (cap / 2 + j) 0#16) := by
  have hdrop : dropUnits .mod cap src = src.drop (cap / 2) := rfl
  rw [hdrop, putUnits_mod _ _ _ (by rw [List.length_drop]; omega)]
  simp

/-- The points, four words each at an eight-word stride (43_point_writer.md rule R197). -/
theorem putUnits_pstm (off m : Nat) (src : List Word) (h : 4 * m ≤ src.length) :
    putUnits .pstm off m src = (List.range m).flatMap fun i => (List.range 4).map fun j =>
      (.stmt (BitVec.ofNat 14 ((off + i) * 8 + j)), src.getD (4 * i + j) 0#16) := by
  change pointWrites (BitVec.ofNat 14 (off * 8)) m src = _
  induction m generalizing off src with
  | zero => rfl
  | succ m ih =>
    have hplace : BitVec.ofNat 14 (off * 8) + BitVec.ofNat 14 8 = BitVec.ofNat 14 ((off + 1) * 8) := by
      rw [← BitVec.ofNat_add, Nat.add_one_mul]
    have hfirst := copyTo_take (fun a => .stmt (BitVec.ofNat 14 a)) next_stmt (off * 8) 4 src (by omega)
    have hrest := ih (off + 1) (src.drop 4) (by rw [List.length_drop]; omega)
    simp only [pointWrites, Config.pstmWords, Config.windowBits, Config.pstmStride, hplace, hfirst, hrest]
    rw [List.range_succ_eq_map (n := m), List.flatMap_cons, List.flatMap_map]
    refine congrArg₂ (· ++ ·) (by simp) (List.flatMap_congr fun i _ => List.map_congr_left fun j _ => ?_)
    have hword : (src.drop 4).getD (4 * i + j) 0#16 = src.getD (4 * (i + 1) + j) 0#16 := by
      simp [List.getD_eq_getElem?_getD, Nat.mul_add, Nat.add_right_comm, Nat.add_comm 4]
    rw [hword, Nat.add_assoc off, Nat.add_comm 1 i]

theorem putUnits_pstm_dropUnits (m cap : Nat) (src : List Word) (h : 4 * (cap + m) ≤ src.length) :
    putUnits .pstm 0 m (dropUnits .pstm cap src) = (List.range m).flatMap fun i => (List.range 4).map fun j =>
      (.stmt (BitVec.ofNat 14 (i * 8 + j)), src.getD (4 * (cap + i) + j) 0#16) := by
  have hdrop : dropUnits .pstm cap src = src.drop (4 * cap) := rfl
  rw [hdrop, putUnits_pstm _ _ _ (by rw [List.length_drop]; omega)]
  simp [Nat.mul_add, Nat.add_assoc]

/-! ## The arms by index -/

theorem armWrites_of_fits {ch : Channel} {cycle : Count} {m : Nat} (c : Params) (src : List Word)
    (h : m ≤ ch.cap cycle) : armWrites ch c cycle m src = putUnits ch (cycle.toNat % ch.size) m src := by
  rw [armWrites, if_pos h, off_eq]

theorem armWrites_of_straddle {ch : Channel} {cycle : Count} {m : Nat} (c : Params) (src : List Word)
    (h : ¬m ≤ ch.cap cycle) :
    armWrites ch c cycle m src =
      putUnits ch (cycle.toNat % ch.size) (ch.cap cycle) src ++
        [(.ctrl (ch.baseReg c), BitVec.ofNat 16 ((cycle.toNat / ch.size + 1) % 2 ^ (32 - ch.k)))] ++
        putUnits ch 0 (m - ch.cap cycle) (dropUnits ch (ch.cap cycle) src) := by
  rw [armWrites, if_neg h, off_eq, baseWrite, baseOf_boundary]

theorem armWrites_mod (c : Params) (cycle : Count) (m : Nat) (src : List Word) (heven : cycle.toNat % 2 = 0)
    (hlen : src.length = (m + 1) / 2) :
    armWrites .mod c cycle m src =
      if m ≤ 32768 - cycle.toNat % 32768 then
        (List.range ((m + 1) / 2)).map fun j =>
          (.modt (BitVec.ofNat 14 (cycle.toNat % 32768 / 2 + j)), src.getD j 0#16)
      else
        ((List.range ((32768 - cycle.toNat % 32768) / 2)).map fun j =>
          (.modt (BitVec.ofNat 14 (cycle.toNat % 32768 / 2 + j)), src.getD j 0#16)) ++
        [(.ctrl c.aModAddrOffset, BitVec.ofNat 16 ((cycle.toNat / 32768 + 1) % 2 ^ 17))] ++
        ((List.range ((m - (32768 - cycle.toNat % 32768) + 1) / 2)).map fun j =>
          (.modt (BitVec.ofNat 14 j), src.getD ((32768 - cycle.toNat % 32768) / 2 + j) 0#16)) := by
  have hcap : Channel.mod.cap cycle = 32768 - cycle.toNat % 32768 := cap_eq .mod cycle
  split
  next hfits => rw [armWrites_of_fits c src (hcap ▸ hfits), putUnits_mod _ _ _ hlen.ge, size_mod]
  next hover =>
    have htail : (32768 - cycle.toNat % 32768 + 1) / 2 = (32768 - cycle.toNat % 32768) / 2 := by omega
    rw [armWrites_of_straddle c src (hcap ▸ hover), hcap, putUnits_mod _ _ _ (by omega),
      putUnits_mod_dropUnits _ _ _ (by omega), htail]
    rfl

theorem armWrites_pstm (c : Params) (cycle : Count) (m : Nat) (src : List Word) (hlen : src.length = 4 * m) :
    armWrites .pstm c cycle m src =
      if m ≤ 2048 - cycle.toNat % 2048 then
        (List.range m).flatMap fun i => (List.range 4).map fun j =>
          (.stmt (BitVec.ofNat 14 ((cycle.toNat % 2048 + i) * 8 + j)), src.getD (4 * i + j) 0#16)
      else
        ((List.range (2048 - cycle.toNat % 2048)).flatMap fun i => (List.range 4).map fun j =>
          (.stmt (BitVec.ofNat 14 ((cycle.toNat % 2048 + i) * 8 + j)), src.getD (4 * i + j) 0#16)) ++
        [(.ctrl c.aStmAddrOffset, BitVec.ofNat 16 ((cycle.toNat / 2048 + 1) % 2 ^ 21))] ++
        ((List.range (m - (2048 - cycle.toNat % 2048))).flatMap fun i => (List.range 4).map fun j =>
          (.stmt (BitVec.ofNat 14 (i * 8 + j)), src.getD (4 * (2048 - cycle.toNat % 2048 + i) + j) 0#16)) := by
  have hcap : Channel.pstm.cap cycle = 2048 - cycle.toNat % 2048 := cap_eq .pstm cycle
  split
  next hfits => rw [armWrites_of_fits c src (hcap ▸ hfits), putUnits_pstm _ _ _ hlen.ge, size_pstm]
  next hover =>
    rw [armWrites_of_straddle c src (hcap ▸ hover), hcap, putUnits_pstm _ _ _ (by omega),
      putUnits_pstm_dropUnits _ _ _ (by omega)]
    rfl

/-! ## The statement of rule R155 -/

/-- Settles O27: the arms by `segWrite_of_overrun`, `segWrite_zero`, `segWrite_mod_of_odd` and `segWrite_of_listed`; the
list of the last one is then written out by index. -/
theorem segWriteMakesTheListedWrites : Obligations.SegWriteMakesTheListedWrites := by
  intro s n src
  have hmod : Channel.mod.cap s.modCycle = 32768 - s.modCycle.toNat % 32768 := cap_eq .mod s.modCycle
  have hpstm : Channel.pstm.cap s.stmCycle = 2048 - s.stmCycle.toNat % 2048 := cap_eq .pstm s.stmCycle
  refine ⟨⟨fun hover => ?_, ?_, fun hn hroom hodd => ?_, fun hn hroom heven hlen => ?_⟩, fun hover => ?_, ?_,
    fun hn hroom hlen => ?_⟩
  · exact segWrite_of_overrun .mod n src s (hmod ▸ hover)
  · rintro rfl
    exact segWrite_zero .mod src s
  · exact segWrite_mod_of_odd n src s (hmod ▸ hroom) hn (getLsbD_zero_eq_true.2 hodd)
  · refine ⟨_, segWrite_of_listed .mod n src s (hmod ▸ hroom) hn fun ⟨_, hodd⟩ => ?_, ?_⟩
    · have h1 : s.modCycle.toNat % 2 = 1 := getLsbD_zero_eq_true.1 hodd
      omega
    · rw [cycle_mod, rebaseWrites_eq, armWrites_mod s.cfg s.modCycle n.toNat src heven hlen]
      rfl
  · exact segWrite_of_overrun .pstm n src s (hpstm ▸ hover)
  · rintro rfl
    exact segWrite_zero .pstm src s
  · refine ⟨_, segWrite_of_listed .pstm n src s (hpstm ▸ hroom) hn nofun, ?_⟩
    rw [cycle_pstm, rebaseWrites_eq, armWrites_pstm s.cfg s.stmCycle n.toNat src hlen]
    rfl

end Sys2Proof.RingWriter
end

section
/-! The pass builders of 44_gain_writer.md: the passes the G.* operations make of a frame, row by row (rules R218 to
R221). -/

namespace Sys2Proof.GainBuilders

open Sys2Proof Sys2Proof.Machine

/-! ## The words of a frame and of the cycle table -/

theorem bodyWord_of_lt {b : List Word} {i : Nat} (d : Nat) (h : i < b.length) : bodyWord b d i = b.getD i 0#16 := by
  simp [bodyWord, elemOr, h]

/-- No synchronize is under way (20_memory.md rule R79). -/
theorem tableWord_of_lt {s : State} {i : Nat} (hold : s.tabOld = none) (h : i < s.cycleTab.length) :
    tableWord s i = s.cycleTab.getD i 0#16 := by
  simp [tableWord, hold, tableElem, elemOr, h]

/-! ## The words of a legacy pass (rules R219 and R220) -/

theorem legacyWord_toNat (p : Byte) : (legacyWord p).toNat = 0xFF00 + p.toNat := wordOf_toNat p 0xFF#8

theorem legacyWord_eq_or {p : Byte} {w : Word} (h : w.toNat = p.toNat) : legacyWord p = 0xFF00#16 ||| w := by
  apply BitVec.eq_of_toNat_eq
  have hor : 0xFF00 + p.toNat = 0xFF00 ||| p.toNat := Nat.shiftLeft_add_eq_or_of_lt p.isLt 0xFF
  rw [legacyWord_toNat, BitVec.toNat_or, h, hor]
  rfl

theorem legacyWord_loByte (w : Word) : legacyWord (loByte w) = 0xFF00#16 ||| (w &&& 0x00FF#16) :=
  legacyWord_eq_or (by
    rw [BitVec.toNat_and, loByte_toNat]
    exact Nat.and_two_pow_sub_one_eq_mod w.toNat 8)

theorem legacyWord_hiByte (w : Word) : legacyWord (hiByte w) = 0xFF00#16 ||| (w >>> 8) :=
  legacyWord_eq_or (by rw [BitVec.toNat_ushiftRight, Nat.shiftRight_eq_div_pow, hiByte_toNat])

theorem nibbleByte_toNat (w : Word) (q : Nat) : (nibbleByte w q).toNat = w.toNat / 16 ^ q % 16 * 17 := by
  have hpow : 2 ^ (4 * q) = 16 ^ q := by rw [Nat.pow_mul]
  have hnib : (w.extractLsb' (4 * q) 4).toNat = w.toNat / 16 ^ q % 16 := by
    rw [BitVec.extractLsb'_toNat, Nat.shiftRight_eq_div_pow, hpow]
  have hlt := (w.extractLsb' (4 * q) 4).isLt
  rw [nibbleByte, BitVec.toNat_append, ← Nat.shiftLeft_add_eq_or_of_lt hlt, Nat.shiftLeft_eq, hnib]
  omega

theorem legacyWord_nibbleByte (w : Word) (q : Nat) :
    legacyWord (nibbleByte w q) = BitVec.ofNat 16 (0xFF00 + w.toNat / 16 ^ q % 16 * 17) := by
  apply BitVec.eq_of_toNat_eq
  rw [legacyWord_toNat, nibbleByte_toNat, BitVec.toNat_ofNat]
  omega

/-! ## A pass reads the words below `N` alone (rule R215) -/

section Passes

variable {c : Params} {f g f' g' : Nat → Word}

theorem legacyPass_congr (h : ∀ i < c.n, f i = g i) : legacyPass c f = legacyPass c g :=
  List.map_congr_left fun i hi => by rw [h i (List.mem_range.1 hi)]

theorem phasePass_congr (h : ∀ i < c.n, f i = g i) : phasePass c f = phasePass c g :=
  List.map_congr_left fun i hi => by rw [h i (List.mem_range.1 hi)]

theorem dutyPass_congr (h : ∀ i < c.n, f i = g i) : dutyPass c f = dutyPass c g :=
  List.map_congr_left fun i hi => by rw [h i (List.mem_range.1 hi)]

theorem pairPass_congr (h : ∀ i < c.n, f i = g i) (h' : ∀ i < c.n, f' i = g' i) : pairPass c f f' = pairPass c g g' :=
  List.flatMap_congr fun i hi => by rw [h i (List.mem_range.1 hi), h' i (List.mem_range.1 hi)]

end Passes

/-! ## The rows of the builders (rules R218 to R220) -/

section Rows

variable (c : Params) (b tab : Nat → Word)

theorem phaseDutyFullPasses_legacy (isDuty : Bool) : phaseDutyFullPasses c true isDuty b = [legacyPass c b] := rfl

theorem phaseDutyFullPasses_pair : phaseDutyFullPasses c false false b =
    [pairPass c (fun i => Config.phaseOf (b i)) fun i => Config.dutyOf (b i)] := rfl

theorem phaseDutyFullPasses_phaseOnly (h : c.pdfDutyFrameWrites = .phaseOnly) :
    phaseDutyFullPasses c false true b = [phasePass c fun i => Config.phaseOf (b i)] := by
  simp [phaseDutyFullPasses, h]

theorem phaseDutyFullPasses_dutyOnly (h : c.pdfDutyFrameWrites = .dutyOnly) :
    phaseDutyFullPasses c false true b = [dutyPass c fun i => Config.dutyOf (b i)] := by
  simp [phaseDutyFullPasses, h]

/-- One cycle in every row (rule R221). -/
theorem phaseDutyFullPasses_single (legacy isDuty : Bool) : ∃ p, phaseDutyFullPasses c legacy isDuty b = [p] := by
  cases legacy with
  | true => exact ⟨_, phaseDutyFullPasses_legacy c b isDuty⟩
  | false =>
    cases isDuty with
    | false => exact ⟨_, phaseDutyFullPasses_pair c b⟩
    | true =>
      cases h : c.pdfDutyFrameWrites with
      | phaseOnly => exact ⟨_, phaseDutyFullPasses_phaseOnly c b h⟩
      | dutyOnly => exact ⟨_, phaseDutyFullPasses_dutyOnly c b h⟩

theorem phaseFullPasses_legacy (isDuty : Bool) : phaseFullPasses c true isDuty b tab =
    [legacyPass c fun i => 0xFF00#16 ||| (b i &&& 0x00FF#16), legacyPass c fun i => 0xFF00#16 ||| (b i >>> 8)] := by
  simp only [← legacyWord_loByte, ← legacyWord_hiByte]
  rfl

theorem phaseFullPasses_duty : phaseFullPasses c false true b tab = [] := rfl

theorem phaseFullPasses_pair :
    phaseFullPasses c false false b tab = [pairPass c b fun i => Config.defaultDuty (tab i)] := rfl

theorem phaseHalfPasses_legacy : phaseHalfPasses c true b =
    (List.range 4).map fun q => legacyPass c fun i => BitVec.ofNat 16 (0xFF00 + (b i).toNat / 16 ^ q % 16 * 17) := by
  simp only [← legacyWord_nibbleByte]
  rfl

theorem phaseHalfPasses_nonlegacy : phaseHalfPasses c false b = [] := rfl

end Rows

/-! ## What the builders leave (rules R216 and R221) -/

theorem latchPasses_of_passes {g : GainMode} {s : State} {ps : List Pass} {n : Nat} (h : gainPassesOf g s = ps)
    (hn : ps.length = n) :
    latchPasses g s = { s with gainCount := BitVec.ofNat 16 n, gainPasses := ps, draws := s.draws + 1 } := by
  rw [latchPasses, h, hn]

theorem gainPassesOf_pdf (s : State) : gainPassesOf .pdf s =
    phaseDutyFullPasses s.cfg (qLegacy s) (qIsDuty s) (bodyWord s.qStage.body s.draws) := rfl

theorem gainPassesOf_pf (s : State) : gainPassesOf .pf s =
    phaseFullPasses s.cfg (qLegacy s) (qIsDuty s) (bodyWord s.qStage.body s.draws) (tableWord s) := rfl

theorem gainPassesOf_ph (s : State) : gainPassesOf .ph s =
    phaseHalfPasses s.cfg (qLegacy s) (bodyWord s.qStage.body s.draws) := rfl

theorem exec_gPhaseDutyFull (s : State) : exec .gPhaseDutyFull s = .next (latchPasses .pdf s) := rfl

theorem exec_gPhaseFull (s : State) : exec .gPhaseFull s = .next (latchPasses .pf s) := rfl

theorem exec_gPhaseHalf (s : State) : exec .gPhaseHalf s = .next (latchPasses .ph s) := rfl

/-- Settles O54: the row that the flags select, its words read inside the Body and the cycle table. -/
theorem passBuildersGiveTheListedWords : Obligations.PassBuildersGiveTheListedWords := by
  intro s hbody htab hold
  have hb : ∀ i < s.cfg.n, bodyWord s.qStage.body s.draws i = s.qStage.body.getD i 0#16 :=
    fun i hi => bodyWord_of_lt _ (hbody.symm ▸ hi)
  have ht : ∀ i < s.cfg.n, tableWord s i = s.cycleTab.getD i 0#16 := fun i hi => tableWord_of_lt hold (htab.symm ▸ hi)
  refine ⟨?_, fun hleg => ⟨?_, ?_⟩, fun hleg => ⟨?_, fun hduty => ?_, fun hduty => ?_⟩⟩
  · obtain ⟨p, hp⟩ : ∃ p, gainPassesOf .pdf s = [p] := phaseDutyFullPasses_single ..
    refine ⟨p, (exec_gPhaseDutyFull s).trans (congrArg _ (latchPasses_of_passes hp rfl)), fun hleg => ?_,
      fun hleg hduty => ?_, fun hleg hduty hw => ?_, fun hleg hduty hw => ?_⟩
    · rw [gainPassesOf_pdf, hleg, phaseDutyFullPasses_legacy, List.singleton_inj] at hp
      exact hp ▸ legacyPass_congr hb
    · rw [gainPassesOf_pdf, hleg, hduty, phaseDutyFullPasses_pair, List.singleton_inj] at hp
      exact hp ▸ pairPass_congr (fun i hi => by rw [hb i hi]) fun i hi => by rw [hb i hi]
    · rw [gainPassesOf_pdf, hleg, hduty, phaseDutyFullPasses_phaseOnly _ _ hw, List.singleton_inj] at hp
      exact hp ▸ phasePass_congr fun i hi => by rw [hb i hi]
    · rw [gainPassesOf_pdf, hleg, hduty, phaseDutyFullPasses_dutyOnly _ _ hw, List.singleton_inj] at hp
      exact hp ▸ dutyPass_congr fun i hi => by rw [hb i hi]
  · refine (exec_gPhaseFull s).trans (congrArg _ (latchPasses_of_passes ?_ rfl))
    rw [gainPassesOf_pf, hleg, phaseFullPasses_legacy]
    exact congrArg₂ (fun p q => [p, q]) (legacyPass_congr fun i hi => by rw [hb i hi])
      (legacyPass_congr fun i hi => by rw [hb i hi])
  · refine (exec_gPhaseHalf s).trans (congrArg _ (latchPasses_of_passes ?_ rfl))
    rw [gainPassesOf_ph, hleg, phaseHalfPasses_legacy]
    exact List.map_congr_left fun q _ => legacyPass_congr fun i hi => by rw [hb i hi]
  · refine (exec_gPhaseHalf s).trans (congrArg _ (latchPasses_of_passes ?_ rfl))
    rw [gainPassesOf_ph, hleg, phaseHalfPasses_nonlegacy]
  · refine (exec_gPhaseFull s).trans (congrArg _ (latchPasses_of_passes ?_ rfl))
    rw [gainPassesOf_pf, hleg, hduty, phaseFullPasses_duty]
  · refine (exec_gPhaseFull s).trans (congrArg _ (latchPasses_of_passes ?_ rfl))
    rw [gainPassesOf_pf, hleg, hduty, phaseFullPasses_pair]
    exact congrArg (fun p => [p]) (pairPass_congr hb fun i hi => by rw [ht i hi])

end Sys2Proof.GainBuilders
end

section
/-! Lists of device writes outside region `CTRL` (20_memory.md rules R62 and R68): the registers they leave alone, the bytes
they leave alone, and what they store. -/

namespace Sys2Proof.DeviceWrites

open Sys2Proof Sys2Proof.Machine

/-! ## Locations and their words -/

/-- The region code of 10_state.md rule R37, by which the model places the regions (`wordIndex_div`). -/
def regionCode : Loc → Nat
  | .ctrl _ => 0
  | .modt _ => 1
  | .drvt _ => 2
  | .stmt _ => 3

theorem windowAddr_lt (wa : WinAddr) : wa.toNat < 16384 := wa.isLt

theorem wordIndex_div (mb sb : Word) (l : Loc) : l.wordIndex mb sb / 2 ^ 30 = regionCode l := by
  have hmb := mb.isLt
  have hsb := sb.isLt
  cases l with
  | ctrl a => exact Nat.div_eq_of_lt (Nat.lt_trans a.isLt (by decide))
  | modt wa =>
    have hwa := windowAddr_lt wa
    simp only [Loc.wordIndex, Config.windowWords, regionCode]
    omega
  | drvt a =>
    have ha := a.isLt
    simp only [Loc.wordIndex, regionCode]
    omega
  | stmt wa =>
    have hwa := windowAddr_lt wa
    simp only [Loc.wordIndex, Config.windowWords, regionCode]
    omega

/-- Under the same segment-base registers, no two locations share a device word. -/
theorem wordIndex_inj {mb sb : Word} {l l' : Loc} (h : l.wordIndex mb sb = l'.wordIndex mb sb) : l = l' := by
  have hreg : regionCode l = regionCode l' := by rw [← wordIndex_div mb sb l, h, wordIndex_div]
  match l, l', hreg, h with
  | .ctrl _, .ctrl _, _, h => exact congrArg Loc.ctrl (BitVec.eq_of_toNat_eq h)
  | .modt _, .modt _, _, h =>
    exact congrArg Loc.modt (BitVec.eq_of_toNat_eq (Nat.add_left_cancel (Nat.add_left_cancel h)))
  | .drvt _, .drvt _, _, h => exact congrArg Loc.drvt (BitVec.eq_of_toNat_eq (Nat.add_left_cancel h))
  | .stmt _, .stmt _, _, h =>
    exact congrArg Loc.stmt (BitVec.eq_of_toNat_eq (Nat.add_left_cancel (Nat.add_left_cancel h)))

/-- A location holds two bytes, and two locations share none. -/
theorem byteAddr_apart (s : State) {l l' : Loc} (h : l ≠ l') :
    s.byteAddr l + 1 < s.byteAddr l' ∨ s.byteAddr l' + 1 < s.byteAddr l := by
  have hne : l.wordIndex s.modBase s.stmBase ≠ l'.wordIndex s.modBase s.stmBase := fun he => h (wordIndex_inj he)
  simp only [State.byteAddr]
  omega

/-! ## One write outside `CTRL` -/

section OneWrite

variable {s : State} (d : Domain) {l : Loc} (v : Word)

theorem ctrlReg_bramWrite_of_region (h : s.mem.wf = true) (hl : regionCode l ≠ 0) (a : Word) :
    (bramWrite d l v s).ctrlReg a = s.ctrlReg a :=
  readWord_writeWord_apart _ _ _ v h (byteAddr_apart s (l' := .ctrl a) fun he => hl (he ▸ rfl))

/-- The segment-base registers stand, so every location is reached where it was (rule R68). -/
theorem byteAddr_bramWrite_of_region (h : s.mem.wf = true) (hl : regionCode l ≠ 0) (l' : Loc) :
    (bramWrite d l v s).byteAddr l' = s.byteAddr l' := by
  simp only [State.byteAddr, State.modBase, State.stmBase, bramWrite_cfg, ctrlReg_bramWrite_of_region d v h hl]

/-- A register and a location outside `CTRL` share no byte. -/
theorem readWord_bramWrite_ctrl (u : State) (a : Word) (h : u.mem.wf = true) (hl : regionCode l ≠ 0) :
    (bramWrite d (.ctrl a) v u).mem.readWord (s.byteAddr l) = u.mem.readWord (s.byteAddr l) :=
  readWord_writeWord_apart _ _ _ v h (byteAddr_apart s (l := .ctrl a) fun he => hl (he ▸ rfl))

end OneWrite

theorem sameBytesOutside_trans {s u t : State} {xs ys : List Nat} (hsu : SameBytesOutside s u xs)
    (hut : SameBytesOutside u t ys) : SameBytesOutside s t (ys ++ xs) := by
  intro x hx
  obtain ⟨hys, hxs⟩ : x ∉ ys ∧ x ∉ xs := by simpa using hx
  rw [hut x hys, hsu x hxs]

/-! ## A list of writes outside `CTRL` -/

section Lists

variable {s : State} (d : Domain) {ws : List (Loc × Word)}

theorem ctrlReg_bramWrites_of_region (h : s.mem.wf = true) (hws : ∀ w ∈ ws, regionCode w.1 ≠ 0) (a : Word) :
    (bramWrites d ws s).ctrlReg a = s.ctrlReg a := by
  induction ws generalizing s with
  | nil => rfl
  | cons w ws ih =>
    obtain ⟨hw, hrest⟩ := List.forall_mem_cons.1 hws
    rw [bramWrites_cons, ih (bramWrite_wf d w.1 w.2 s h) hrest, ctrlReg_bramWrite_of_region d w.2 h hw]

/-- Only the bytes of the locations written change. -/
theorem readByte_bramWrites_of_region (h : s.mem.wf = true) (hws : ∀ w ∈ ws, regionCode w.1 ≠ 0) {x : Nat}
    (hx : ∀ w ∈ ws, x ≠ s.byteAddr w.1 ∧ x ≠ s.byteAddr w.1 + 1) :
    (bramWrites d ws s).mem.readByte x = s.mem.readByte x := by
  induction ws generalizing s with
  | nil => rfl
  | cons w ws ih =>
    obtain ⟨hw, hrest⟩ := List.forall_mem_cons.1 hws
    obtain ⟨⟨hlo, hhi⟩, hxs⟩ := List.forall_mem_cons.1 hx
    have hone : (bramWrite d w.1 w.2 s).mem.readByte x = _ := readByte_writeWord s.mem (s.byteAddr w.1) x w.2 h
    rw [if_neg hhi, if_neg hlo] at hone
    rw [bramWrites_cons, ih (bramWrite_wf d w.1 w.2 s h) hrest, hone]
    simpa only [byteAddr_bramWrite_of_region d w.2 h hw] using hxs

theorem sameBytesOutside_bramWrites_of_region (h : s.mem.wf = true) (hws : ∀ w ∈ ws, regionCode w.1 ≠ 0) :
    SameBytesOutside s (bramWrites d ws s) (storedBytes s (ws.map Prod.fst)) := by
  intro x hx
  refine readByte_bramWrites_of_region d h hws fun w hw => ?_
  have hbytes : x ∉ [s.byteAddr w.1, s.byteAddr w.1 + 1] := fun hmem =>
    hx (List.mem_flatMap.2 ⟨w.1, List.mem_map_of_mem hw, hmem⟩)
  simpa using hbytes

/-- A location that the list does not write keeps its word. -/
theorem readWord_bramWrites_of_region (h : s.mem.wf = true) (hws : ∀ w ∈ ws, regionCode w.1 ≠ 0) {l : Loc}
    (hl : ∀ w ∈ ws, w.1 ≠ l) :
    (bramWrites d ws s).mem.readWord (s.byteAddr l) = s.mem.readWord (s.byteAddr l) := by
  have hapart : ∀ w ∈ ws, _ := fun w hw => byteAddr_apart s (hl w hw)
  rw [Memory.readWord, Memory.readWord,
    readByte_bramWrites_of_region d h hws fun w hw => by have := hapart w hw; omega,
    readByte_bramWrites_of_region d h hws fun w hw => by have := hapart w hw; omega]

/-- A location holds what the list gives it, when every write of the list to it has that word. -/
theorem readWord_bramWrites_of_mem (h : s.mem.wf = true) (hws : ∀ w ∈ ws, regionCode w.1 ≠ 0) {l : Loc} {v : Word}
    (hmem : (l, v) ∈ ws) (hsame : ∀ w ∈ ws, w.1 = l → w.2 = v) :
    (bramWrites d ws s).mem.readWord (s.byteAddr l) = v := by
  induction ws generalizing s with
  | nil => cases hmem
  | cons w ws ih =>
    obtain ⟨hw, hrest⟩ := List.forall_mem_cons.1 hws
    obtain ⟨hwv, hsames⟩ := List.forall_mem_cons.1 hsame
    have hwf := bramWrite_wf d w.1 w.2 s h
    rw [bramWrites_cons, ← byteAddr_bramWrite_of_region d w.2 h hw l]
    by_cases hlater : ∃ u ∈ ws, u.1 = l
    · obtain ⟨u, hu, rfl⟩ := hlater
      exact ih hwf hrest (by rw [← hsames u hu rfl]; exact hu) hsames
    · have hnow : (l, v) = w := (List.mem_cons.1 hmem).resolve_right fun hin => hlater ⟨_, hin, rfl⟩
      subst hnow
      rw [readWord_bramWrites_of_region d hwf hrest fun u hu hul => hlater ⟨u, hu, hul⟩,
        byteAddr_bramWrite_of_region d v h hw]
      exact readWord_writeWord_same s.mem (s.byteAddr l) v h

end Lists

end Sys2Proof.DeviceWrites
end

section
/-! SEG.WRITE.GSTM of 44_gain_writer.md rule R213: its slot writes by index and its write of the segment-base register as
one list, and what that list stores. -/

namespace Sys2Proof.GainSlots

open Sys2Proof Sys2Proof.Machine Sys2Proof.DeviceWrites

/-! ## The slot writes by index -/

/-- The writes of the passes, pass `k` to slot `(cycle + k) mod 32` (`slotWrites_eq`). -/
def indexedWrites (cycle : Count) (passes : List Pass) : List (Loc × Word) :=
  passes.zipIdx.flatMap fun pk => pk.1.map fun x => (slotLoc cycle pk.2 x.1, x.2)

/-- A slot lies in region `STMT`. -/
theorem slotLoc_region (cycle : Count) (k : Nat) (o : SlotOff) : regionCode (slotLoc cycle k o) ≠ 0 := Nat.succ_ne_zero 2

theorem passWrites_eq (cycle : Count) (k : Nat) (p : Pass) :
    passWrites (BitVec.ofNat 14 (Channel.gstm.off (cycle + BitVec.ofNat 32 k) * 512)) p =
      p.map fun x => (slotLoc cycle k x.1, x.2) := by
  have hslot : (cycle + BitVec.ofNat 32 k).toNat % 32 = (cycle.toNat + k) % 32 := by
    simp only [BitVec.toNat_add, BitVec.toNat_ofNat, Config.cycleBits]
    omega
  refine List.map_congr_left fun x _ => ?_
  rw [off_eq, size_gstm, hslot, slotLoc, BitVec.ofNat_add]
  simp [BitVec.ofNat_toNat]

theorem slotWrites_add (cycle : Count) (k : Nat) (passes : List Pass) :
    slotWrites (cycle + BitVec.ofNat 32 k) passes =
      (passes.zipIdx k).flatMap fun pk => pk.1.map fun x => (slotLoc cycle pk.2 x.1, x.2) := by
  induction passes generalizing k with
  | nil => rfl
  | cons p ps ih =>
    have hnext : cycle + BitVec.ofNat 32 k + 1#32 = cycle + BitVec.ofNat 32 (k + 1) := by
      rw [BitVec.add_assoc, BitVec.ofNat_add]
    have hfirst := passWrites_eq cycle k p
    rw [slotWrites, hnext, ih, List.zipIdx_cons, List.flatMap_cons, ← hfirst]

theorem slotWrites_eq (cycle : Count) (passes : List Pass) : slotWrites cycle passes = indexedWrites cycle passes := by
  simpa [indexedWrites] using slotWrites_add cycle 0 passes

theorem mem_indexedWrites {cycle : Count} {passes : List Pass} {w : Loc × Word} :
    w ∈ indexedWrites cycle passes ↔
      ∃ k p x, passes[k]? = some p ∧ x ∈ p ∧ w = (slotLoc cycle k x.1, x.2) := by
  simp only [indexedWrites, List.mem_flatMap, List.mem_map, Prod.exists, List.mem_zipIdx_iff_getElem?]
  constructor
  · rintro ⟨p, k, hp, o, v, hx, rfl⟩
    exact ⟨k, p, o, v, hp, hx, rfl⟩
  · rintro ⟨k, p, o, v, hp, hx, rfl⟩
    exact ⟨p, k, hp, o, v, hx, rfl⟩

theorem indexedWrites_region (cycle : Count) (passes : List Pass) :
    ∀ w ∈ indexedWrites cycle passes, regionCode w.1 ≠ 0 := by
  intro w hw
  obtain ⟨k, p, x, -, -, rfl⟩ := mem_indexedWrites.1 hw
  exact slotLoc_region cycle k x.1

theorem indexedWrites_locs (cycle : Count) (passes : List Pass) :
    (indexedWrites cycle passes).map Prod.fst = slotLocs cycle passes := by
  simp [indexedWrites, slotLocs, List.map_flatMap, Function.comp_def]

theorem indexedWrites_requests (cycle : Count) (passes : List Pass) :
    ((indexedWrites cycle passes).map fun w => BusReq.write .q w.1 w.2) =
      passes.zipIdx.flatMap fun pk => pk.1.map fun x => .write .q (slotLoc cycle pk.2 x.1) x.2 := by
  simp [indexedWrites, List.map_flatMap, Function.comp_def]

/-! ## No location is written twice -/

/-- Up to 32 slots from any counter value on are different places. -/
theorem slotLoc_inj {cycle : Count} {k k' : Nat} {o o' : SlotOff} (hk : k < 32) (hk' : k' < 32)
    (h : slotLoc cycle k o = slotLoc cycle k' o') : k = k' ∧ o = o' := by
  have ho : o.toNat < 512 := o.isLt
  have ho' : o'.toNat < 512 := o'.isLt
  have haddr := congrArg BitVec.toNat (Loc.stmt.inj h)
  simp only [BitVec.toNat_ofNat, Config.windowBits] at haddr
  exact ⟨by omega, BitVec.eq_of_toNat_eq (by omega)⟩

/-- The order of rule R212 relates any two places of a pass, not neighbours alone. -/
theorem pairwise_of_ascending {p : Pass} (h : Pass.ascending p = true) : p.Pairwise fun x y => x.1 < y.1 := by
  induction p with
  | nil => exact .nil
  | cons x p ih =>
    cases p with
    | nil => exact List.pairwise_singleton ..
    | cons y rest =>
      obtain ⟨hxy, hrest⟩ := Bool.and_eq_true_iff.1 h
      have hlt : x.1 < y.1 := BitVec.ult_iff_lt.1 hxy
      have htail := ih hrest
      refine .cons (List.forall_mem_cons.2 ⟨hlt, fun z hz => ?_⟩) htail
      exact BitVec.lt_trans hlt (List.rel_of_pairwise_cons htail hz)

theorem word_eq_of_ascending {p : Pass} (h : Pass.ascending p = true) {x y : SlotOff × Word} (hx : x ∈ p) (hy : y ∈ p)
    (hxy : x.1 = y.1) : x = y :=
  have hnodup : (p.map Prod.fst).Nodup :=
    List.pairwise_map.2 ((pairwise_of_ascending h).imp fun hlt => BitVec.ne_of_lt hlt)
  List.inj_on_of_nodup_map hnodup hx hy hxy

theorem indexedWrites_unique {cycle : Count} {passes : List Pass} (hlen : passes.length ≤ 32)
    (hasc : passes.all Pass.ascending = true) {k : Nat} {p : Pass} {x : SlotOff × Word} (hp : passes[k]? = some p)
    (hx : x ∈ p) : ∀ w ∈ indexedWrites cycle passes, w.1 = slotLoc cycle k x.1 → w.2 = x.2 := by
  intro w hw hloc
  obtain ⟨k', p', x', hp', hx', rfl⟩ := mem_indexedWrites.1 hw
  obtain ⟨hk, -⟩ := List.getElem?_eq_some_iff.1 hp
  obtain ⟨hk', -⟩ := List.getElem?_eq_some_iff.1 hp'
  obtain ⟨rfl, hoff⟩ := slotLoc_inj (hk'.trans_le hlen) (hk.trans_le hlen) hloc
  obtain rfl : p' = p := Option.some.inj (hp'.symm.trans hp)
  have hpasc : Pass.ascending p' = true := List.all_eq_true.1 hasc p' (List.mem_of_getElem? hp)
  rw [word_eq_of_ascending hpasc hx' hx hoff]

/-! ## SEG.WRITE.GSTM as one list of device writes -/

/-- The write of the segment-base register, due when the counter after the advance is on a boundary (`eagerRebase_eq`). -/
def boundaryWrites (c : Params) (cycle : Count) : List (Loc × Word) :=
  if cycle.toNat % 32 = 0 then [(.ctrl c.aStmAddrOffset, trunc16 (cycle >>> 5))] else []

/-- All writes of SEG.WRITE.GSTM, in their order (`segWriteGain_of_listed`). -/
def gainWrites (c : Params) (cycle : Count) (m : BitVec 16) (passes : List Pass) : List (Loc × Word) :=
  indexedWrites cycle passes ++ boundaryWrites c (cycle + m.zeroExtend 32)

theorem advance_mod (cycle : Count) (m : BitVec 16) :
    (cycle + m.zeroExtend 32).toNat % 32 = (cycle.toNat + m.toNat) % 32 := by
  simp only [BitVec.toNat_add, BitVec.zeroExtend_eq_setWidth, BitVec.toNat_setWidth, Config.cycleBits]
  omega

theorem eagerRebase_eq (s : State) : eagerRebase s = bramWrites .q (boundaryWrites s.cfg s.stmCycle) s := by
  rw [eagerRebase, boundaryWrites, off_eq, size_gstm]
  split <;> rfl

theorem exec_segWriteGstm (m : BitVec 16) (passes : List Pass) (s : State) :
    exec (.segWriteGstm m passes) s = segWriteGain m passes s := rfl

theorem segWriteGain_of_listed {m : BitVec 16} {passes : List Pass} (s : State) (hm : m.toNat ≤ 32)
    (hlen : passes.length = m.toNat) :
    segWriteGain m passes s = .next
      { s with
        stmCycle := s.stmCycle + m.zeroExtend 32, wDone := true
        mem := (bramWrites .q (gainWrites s.cfg s.stmCycle m passes) s).mem
        bus := (bramWrites .q (gainWrites s.cfg s.stmCycle m passes) s).bus } := by
  have hlist : eagerRebase (Channel.gstm.setCycle (s.stmCycle + m.zeroExtend 32)
      (bramWrites .q (slotWrites s.stmCycle (passes.take m.toNat)) s)) =
        Channel.gstm.setCycle (s.stmCycle + m.zeroExtend 32)
          (bramWrites .q (gainWrites s.cfg s.stmCycle m passes) s) := by
    rw [eagerRebase_eq, RingWriter.bramWrites_setCycle, ← hlen, List.take_length, slotWrites_eq, gainWrites,
      bramWrites_append]
    simp
  refine (segWriteGain_next m passes s _).2 ⟨hm, ?_⟩
  rw [hlist, bramWrites_eq]
  rfl

theorem gainWrites_requests (c : Params) (cycle : Count) (m : BitVec 16) (passes : List Pass) :
    ((gainWrites c cycle m passes).map fun w => BusReq.write .q w.1 w.2) =
      (passes.zipIdx.flatMap fun pk => pk.1.map fun x => .write .q (slotLoc cycle pk.2 x.1) x.2) ++
        (if (cycle.toNat + m.toNat) % 32 = 0 then
          [.write .q (.ctrl c.aStmAddrOffset) (trunc16 ((cycle + m.zeroExtend 32) >>> 5))] else []) := by
  rw [gainWrites, List.map_append, indexedWrites_requests, boundaryWrites, advance_mod, apply_ite (List.map _)]
  rfl

/-! ## What the list leaves in the device -/

section Stored

variable {s : State} {cycle : Count} {m : BitVec 16} {passes : List Pass}

theorem bramWrites_gainWrites_of_boundary (h : (cycle.toNat + m.toNat) % 32 = 0) :
    bramWrites .q (gainWrites s.cfg cycle m passes) s =
      bramWrite .q (.ctrl s.cfg.aStmAddrOffset) (trunc16 ((cycle + m.zeroExtend 32) >>> 5))
        (bramWrites .q (indexedWrites cycle passes) s) := by
  rw [gainWrites, bramWrites_append, boundaryWrites, advance_mod, if_pos h]
  rfl

theorem gainWrites_of_inside (h : (cycle.toNat + m.toNat) % 32 ≠ 0) :
    gainWrites s.cfg cycle m passes = indexedWrites cycle passes := by
  rw [gainWrites, boundaryWrites, advance_mod, if_neg h, List.append_nil]

theorem baseReg_gainWrites_of_boundary (hwf : s.mem.wf = true) (h : (cycle.toNat + m.toNat) % 32 = 0) :
    (bramWrites .q (gainWrites s.cfg cycle m passes) s).ctrlReg s.cfg.aStmAddrOffset =
      trunc16 ((cycle + m.zeroExtend 32) >>> 5) := by
  rw [bramWrites_gainWrites_of_boundary h]
  exact RingWriter.ctrlReg_bramWrite_same .q _ _ (bramWrites_wf .q _ s hwf)

theorem baseReg_gainWrites_of_inside (hwf : s.mem.wf = true) (h : (cycle.toNat + m.toNat) % 32 ≠ 0) :
    (bramWrites .q (gainWrites s.cfg cycle m passes) s).ctrlReg s.cfg.aStmAddrOffset = s.stmBase := by
  rw [gainWrites_of_inside h]
  exact ctrlReg_bramWrites_of_region .q hwf (indexedWrites_region cycle passes) _

theorem readWord_gainWrites (hwf : s.mem.wf = true) (hlen : passes.length ≤ 32)
    (hasc : passes.all Pass.ascending = true) {k : Nat} {p : Pass} {x : SlotOff × Word} (hp : passes[k]? = some p)
    (hx : x ∈ p) :
    (bramWrites .q (gainWrites s.cfg cycle m passes) s).mem.readWord (s.byteAddr (slotLoc cycle k x.1)) = x.2 := by
  have hslot : (bramWrites .q (indexedWrites cycle passes) s).mem.readWord (s.byteAddr (slotLoc cycle k x.1)) = x.2 :=
    readWord_bramWrites_of_mem .q hwf (indexedWrites_region cycle passes) (mem_indexedWrites.2 ⟨k, p, x, hp, hx, rfl⟩)
      (indexedWrites_unique hlen hasc hp hx)
  by_cases h : (cycle.toNat + m.toNat) % 32 = 0
  · rw [bramWrites_gainWrites_of_boundary h, ← hslot]
    exact readWord_bramWrite_ctrl .q _ _ _ (bramWrites_wf .q _ s hwf) (slotLoc_region cycle k x.1)
  · rw [gainWrites_of_inside h, hslot]

theorem sameBytesOutside_gainWrites (hwf : s.mem.wf = true) :
    SameBytesOutside s (bramWrites .q (gainWrites s.cfg cycle m passes) s)
      (regBytes s.cfg.aStmAddrOffset ++ storedBytes s (slotLocs cycle passes)) := by
  have hslots := sameBytesOutside_bramWrites_of_region .q hwf (indexedWrites_region cycle passes)
  rw [indexedWrites_locs] at hslots
  by_cases h : (cycle.toNat + m.toNat) % 32 = 0
  · rw [bramWrites_gainWrites_of_boundary h]
    exact sameBytesOutside_trans hslots (RingWriter.sameBytesOutside_bramWrite_ctrl .q _ _ (bramWrites_wf .q _ s hwf))
  · rw [gainWrites_of_inside h]
    exact fun x hx => hslots x fun hin => hx (List.mem_append_right _ hin)

end Stored

/-- Settles O29: the slot writes reach the window under the base register as it stood, since none of them is to a register;
the base register, if it is due, is written after them. -/
theorem gainWriteFillsSlots : Obligations.GainWriteFillsSlots := by
  intro s m passes
  refine ⟨fun hover => (segWriteGain_fault m passes s _).2 ⟨hover, rfl⟩, fun hwf hm hlen hasc => ?_⟩
  refine ⟨_, (exec_segWriteGstm m passes s).trans (segWriteGain_of_listed s hm hlen), ?_, ?_, ?_, ?_, ?_, ?_⟩
  · rfl
  · refine newRequests_eq s _ _ ?_
    rw [← gainWrites_requests]
    exact bramWrites_bus .q _ s
  · exact fun k p x hp hx => readWord_gainWrites hwf (hlen ▸ hm) hasc hp hx
  · exact baseReg_gainWrites_of_boundary hwf
  · exact baseReg_gainWrites_of_inside hwf
  · exact sameBytesOutside_gainWrites hwf

end Sys2Proof.GainSlots
end

section
/-! Lists of device writes in any region (20_memory.md rules R62 and R68): a location that stands throughout the list holds
the last word the list gives it, and a list of register writes changes the bytes of those registers alone. -/

namespace Sys2Proof.LastWrites

open Sys2Proof Sys2Proof.Machine Sys2Proof.DeviceWrites

/-! ## The last write of a list to a location -/

/-- The word of the last write of a list to a location, if the list writes it. -/
def lastWrite (l : Loc) (ws : List (Loc × Word)) : Option Word := (ws.filter fun w => w.1 = l).getLast?.map Prod.snd

theorem lastWrite_concat (l : Loc) (ws : List (Loc × Word)) (w : Loc × Word) :
    lastWrite l (ws ++ [w]) = if w.1 = l then some w.2 else lastWrite l ws := by
  by_cases hw : w.1 = l <;> simp [lastWrite, hw]

theorem lastWrite_of_notMem {l : Loc} {ws : List (Loc × Word)} (h : l ∉ ws.map Prod.fst) : lastWrite l ws = none := by
  have hnone : (ws.filter fun w => w.1 = l) = [] := List.filter_eq_nil_iff.2 fun w hw hl =>
    h (List.mem_map.2 ⟨w, hw, of_decide_eq_true hl⟩)
  rw [lastWrite, hnone]
  rfl

/-- No location is written twice, so the last write is the only one. -/
theorem lastWrite_of_nodup {l : Loc} {v : Word} {ws : List (Loc × Word)} (hnodup : (ws.map Prod.fst).Nodup)
    (hmem : (l, v) ∈ ws) : lastWrite l ws = some v := by
  have hin : (l, v) ∈ ws.filter fun w => w.1 = l := List.mem_filter.2 ⟨hmem, decide_eq_true rfl⟩
  have hlast := List.getLast?_eq_some_getLast (List.ne_nil_of_mem hin)
  obtain ⟨hmem', hl⟩ := List.mem_filter.1 (List.mem_of_getLast? hlast)
  have honly := List.inj_on_of_nodup_map hnodup hmem' hmem (of_decide_eq_true hl)
  rw [lastWrite, hlast, honly]
  rfl

/-! ## What a list of writes stores -/

section Stored

variable {s : State} (d : Domain) {ws : List (Loc × Word)}

theorem readWord_bramWrite (l l' : Loc) (v : Word) (h : s.mem.wf = true) :
    (bramWrite d l v s).mem.readWord (s.byteAddr l') = if l = l' then v else s.mem.readWord (s.byteAddr l') := by
  split
  next heq =>
    subst heq
    exact readWord_writeWord_same s.mem (s.byteAddr l) v h
  next hne => exact readWord_writeWord_apart s.mem _ _ v h (byteAddr_apart s hne)

/-- The address of a location depends on the segment-base registers: the premise is that no write of the list moves it. -/
theorem readWord_bramWrites_of_standing (h : s.mem.wf = true) {l : Loc}
    (hl : ∀ us, us <+: ws → (bramWrites d us s).byteAddr l = s.byteAddr l) :
    (bramWrites d ws s).mem.readWord (s.byteAddr l) = (lastWrite l ws).getD (s.mem.readWord (s.byteAddr l)) := by
  induction ws using List.reverseRecOn with
  | nil => rfl
  | append_singleton ws w ih =>
    have hrest := ih fun us hus => hl us (hus.trans ⟨[w], rfl⟩)
    have hone := readWord_bramWrite d w.1 l w.2 (bramWrites_wf d ws s h)
    rw [hl ws ⟨[w], rfl⟩, hrest] at hone
    rw [bramWrites_append, lastWrite_concat]
    split
    next heq => exact hone.trans (if_pos heq)
    next hne => exact hone.trans (if_neg hne)

/-- A register is reached at one address whatever the segment-base registers hold. -/
theorem ctrlReg_bramWrites (h : s.mem.wf = true) (a : Word) :
    (bramWrites d ws s).ctrlReg a = (lastWrite (.ctrl a) ws).getD (s.ctrlReg a) :=
  readWord_bramWrites_of_standing d h (l := .ctrl a) fun _ _ => rfl

theorem ctrlReg_bramWrites_of_nodup (h : s.mem.wf = true) (hnodup : (ws.map Prod.fst).Nodup) {a v : Word}
    (hmem : (.ctrl a, v) ∈ ws) : (bramWrites d ws s).ctrlReg a = v := by
  rw [ctrlReg_bramWrites d h, lastWrite_of_nodup hnodup hmem]
  rfl

theorem byteAddr_bramWrites_of_region (h : s.mem.wf = true) (hws : ∀ w ∈ ws, regionCode w.1 ≠ 0) (l : Loc) :
    (bramWrites d ws s).byteAddr l = s.byteAddr l := by
  simp only [State.byteAddr, State.modBase, State.stmBase, bramWrites_cfg, ctrlReg_bramWrites_of_region d h hws]

theorem readWord_bramWrites_of_region_last (h : s.mem.wf = true) (hws : ∀ w ∈ ws, regionCode w.1 ≠ 0) (l : Loc) :
    (bramWrites d ws s).mem.readWord (s.byteAddr l) = (lastWrite l ws).getD (s.mem.readWord (s.byteAddr l)) :=
  readWord_bramWrites_of_standing d h fun _ hus =>
    byteAddr_bramWrites_of_region d h (fun w hw => hws w (hus.subset hw)) l

end Stored

/-! ## What a list of register writes leaves alone -/

theorem sameBytesOutside_mono {s t : State} {xs ys : List Nat} (h : SameBytesOutside s t xs) (hsub : xs ⊆ ys) :
    SameBytesOutside s t ys := fun x hx => h x fun hxs => hx (hsub hxs)

theorem storedBytes_append (s : State) (ls ls' : List Loc) :
    storedBytes s (ls ++ ls') = storedBytes s ls ++ storedBytes s ls' := List.flatMap_append

theorem sameBytesOutside_bramWrites_ctrl {s : State} (d : Domain) {ws : List (Loc × Word)} (h : s.mem.wf = true)
    (hws : ∀ w ∈ ws, regionCode w.1 = 0) :
    SameBytesOutside s (bramWrites d ws s) (storedBytes s (ws.map Prod.fst)) := by
  induction ws using List.reverseRecOn with
  | nil => exact fun _ _ => rfl
  | append_singleton ws w ih =>
    obtain ⟨hrest, hw⟩ := List.forall_mem_append.1 hws
    match w, List.forall_mem_singleton.1 hw with
    | (.ctrl a, v), _ =>
      have hlast := RingWriter.sameBytesOutside_bramWrite_ctrl d a v (bramWrites_wf d ws s h)
      rw [bramWrites_append, List.map_append, storedBytes_append]
      exact sameBytesOutside_mono (sameBytesOutside_trans (ih hrest) hlast)
        (List.append_subset.2 ⟨List.subset_append_right .., List.subset_append_left ..⟩)

end Sys2Proof.LastWrites
end

section
/-! Copies into a table of the device by index, and the places of the tables of region `CTRL`, which are apart from one
another and from the single registers (00_scope.md rule R5, 20_memory.md rules R63 and R65). -/

namespace Sys2Proof.DeviceTables

open Sys2Proof Sys2Proof.Machine Sys2Proof.DeviceWrites Sys2Proof.LastWrites

/-! ## Copies by index -/

/-- The locations of a table of region `CTRL`, ascending. -/
def tableLocs (base : Word) (n : Nat) : List Loc := (List.range n).map fun i => .ctrl (base + BitVec.ofNat 16 i)

/-- The writes of the words `f` to a table of region `CTRL`, ascending (`copyTo_ctrl`). -/
def tableWrites (base : Word) (n : Nat) (f : Nat → Word) : List (Loc × Word) :=
  (List.range n).map fun i => (.ctrl (base + BitVec.ofNat 16 i), f i)

theorem copyTo_range (place : Nat → Loc) (hplace : ∀ a, (place a).next = place (a + 1)) (a n : Nat) (f : Nat → Word) :
    copyTo (place a) ((List.range n).map f) = (List.range n).map fun j => (place (a + j), f j) := by
  have htake := RingWriter.copyTo_take place hplace a n ((List.range n).map f) (by simp)
  rw [List.take_of_length_le (by simp)] at htake
  rw [htake]
  refine List.map_congr_left fun j hj => ?_
  simp [List.mem_range.1 hj]

theorem next_ctrl (a : Nat) : (Loc.ctrl (BitVec.ofNat 16 a)).next = .ctrl (BitVec.ofNat 16 (a + 1)) := by
  rw [BitVec.ofNat_add]
  rfl

theorem next_drvt (a : Nat) : (Loc.drvt (BitVec.ofNat 16 a)).next = .drvt (BitVec.ofNat 16 (a + 1)) := by
  rw [BitVec.ofNat_add]
  rfl

theorem copyTo_ctrl (base : Word) (n : Nat) (f : Nat → Word) :
    copyTo (.ctrl base) ((List.range n).map f) = tableWrites base n f := by
  have hcopy := copyTo_range (fun a => .ctrl (BitVec.ofNat 16 a)) next_ctrl base.toNat n f
  simpa [BitVec.ofNat_add, tableWrites] using hcopy

/-- The fill of the drive table (rule R65). -/
theorem fillAt_drvt (v : Word) (n : Nat) :
    fillAt (.drvt 0#16) v n = (List.range n).map fun a => (.drvt (BitVec.ofNat 16 a), v) := by
  have hcopy := copyTo_range (fun a => .drvt (BitVec.ofNat 16 a)) next_drvt 0 n fun _ => v
  simpa [fillAt] using hcopy

/-- A Body of the length of rule R32 is its own words. -/
theorem bodyWords_eq {c : Params} {b : List Word} (d : Nat) (h : b.length = c.n) : bodyWords c b d = b := by
  refine List.ext_getElem (by simp [bodyWords, h]) fun i _ hi => ?_
  simp [bodyWords, GainBuilders.bodyWord_of_lt d hi, hi]

theorem copyTo_bodyWords {c : Params} {b : List Word} (base : Word) (d : Nat) (h : b.length = c.n) :
    copyTo (.ctrl base) (bodyWords c b d) = tableWrites base c.n fun i => b.getD i 0#16 := by
  rw [bodyWords, copyTo_ctrl]
  refine List.map_congr_left fun i hi => ?_
  rw [GainBuilders.bodyWord_of_lt d (h ▸ List.mem_range.1 hi)]

/-! ## The writes of a table -/

theorem tableWrites_locs (base : Word) (n : Nat) (f : Nat → Word) :
    (tableWrites base n f).map Prod.fst = tableLocs base n := List.map_map

theorem tableWrites_region (base : Word) (n : Nat) (f : Nat → Word) :
    ∀ w ∈ tableWrites base n f, regionCode w.1 = 0 := List.forall_mem_map.2 fun _ _ => rfl

theorem mem_tableWrites {base : Word} {n i : Nat} (f : Nat → Word) (h : i < n) :
    (.ctrl (base + BitVec.ofNat 16 i), f i) ∈ tableWrites base n f :=
  List.mem_map.2 ⟨i, List.mem_range.2 h, rfl⟩

theorem tableWrites_requests (d : Domain) (base : Word) (n : Nat) (f : Nat → Word) :
    ((tableWrites base n f).map fun w => BusReq.write d w.1 w.2) =
      (List.range n).map fun i => .write d (.ctrl (base + BitVec.ofNat 16 i)) (f i) := List.map_map

/-! ## The places of the tables -/

/-- A table that ends inside the region does not wrap. -/
theorem tableAddr_toNat {base : Word} {n i : Nat} (hend : base.toNat + n ≤ 65536) (h : i < n) :
    (base + BitVec.ofNat 16 i).toNat = base.toNat + i := by
  rw [BitVec.toNat_add, BitVec.toNat_ofNat]
  omega

theorem tableLocs_nodup {base : Word} {n : Nat} (hend : base.toNat + n ≤ 65536) : (tableLocs base n).Nodup := by
  refine List.Nodup.map_on (fun i hi j hj hij => ?_) List.nodup_range
  have haddr := congrArg BitVec.toNat (Loc.ctrl.inj hij)
  rw [tableAddr_toNat hend (List.mem_range.1 hi), tableAddr_toNat hend (List.mem_range.1 hj)] at haddr
  exact Nat.add_left_cancel haddr

theorem tableLocs_disjoint {base base' : Word} {n n' : Nat} (hend : base.toNat + n ≤ 65536)
    (hend' : base'.toNat + n' ≤ 65536) (h : apart (base.toNat, n) (base'.toNat, n')) :
    (tableLocs base n).Disjoint (tableLocs base' n') := by
  intro l hl hl'
  obtain ⟨i, hi, rfl⟩ := List.mem_map.1 hl
  obtain ⟨j, hj, hij⟩ := List.mem_map.1 hl'
  have haddr := congrArg BitVec.toNat (Loc.ctrl.inj hij)
  rw [List.mem_range] at hi hj
  rw [tableAddr_toNat hend hi, tableAddr_toNat hend' hj] at haddr
  simp only [apart] at h
  omega

/-- A single register is a table of one word. -/
theorem ctrl_notMem_tableLocs {a base : Word} {n : Nat} (hend : base.toNat + n ≤ 65536)
    (h : apart (a.toNat, 1) (base.toNat, n)) : Loc.ctrl a ∉ tableLocs base n := by
  have hone : Loc.ctrl a ∈ tableLocs a 1 := by simp [tableLocs]
  exact fun hmem => tableLocs_disjoint (Nat.succ_le_of_lt a.isLt) hend h hone hmem

theorem ctrlLocs_nodup {regs : List Word} (h : regs.Nodup) : (regs.map Loc.ctrl).Nodup :=
  h.map fun _ _ => Loc.ctrl.inj

/-! ## What rule R5 says of the places -/

section Valid

variable {c : Params} (hc : c.Valid)

include hc

theorem singleRegs_nodup : c.singleRegs.Nodup := by
  obtain ⟨-, -, -, -, -, hregs, -⟩ := hc
  exact hregs

/-- The registers that the global clear writes, in its order (45_dispatch_apply.md rule R252). -/
theorem clearRegs_nodup :
    [c.aCtlReg, c.aSilentStep, c.aSilentCycle, c.aModAddrOffset, c.aStmAddrOffset].Nodup := by
  have hregs := singleRegs_nodup hc
  simp only [Params.singleRegs, List.nodup_cons, List.mem_cons, not_or] at hregs ⊢
  tauto

theorem silencerRegs_nodup : [c.aSilentStep, c.aSilentCycle].Nodup := by
  obtain ⟨-, htail⟩ := List.nodup_cons.1 (clearRegs_nodup hc)
  exact htail.sublist (.cons_cons _ (.cons_cons _ (List.nil_sublist _)))

theorem range_end {r : Nat × Nat} (hr : r ∈ c.ranges) : r.1 + r.2 ≤ 65536 := by
  obtain ⟨-, -, -, -, -, -, ⟨-, hend, -⟩, -⟩ := hc
  exact hend r hr

theorem ranges_apart : c.ranges.Pairwise apart := by
  obtain ⟨-, -, -, -, -, -, ⟨hapart, -, -⟩, -⟩ := hc
  exact hapart

theorem singleReg_apart {a : Word} {r : Nat × Nat} (ha : a ∈ c.singleRegs) (hr : r ∈ c.ranges) :
    apart (a.toNat, 1) r := by
  obtain ⟨-, -, -, -, -, -, ⟨-, -, hsingle⟩, -⟩ := hc
  exact hsingle a ha r hr

theorem cycleTable_end : c.aCycleBase.toNat + c.n ≤ 65536 :=
  range_end hc (r := (c.aCycleBase.toNat, c.n)) (by simp [Params.ranges])

theorem delayTable_end : c.aModDelayBase.toNat + c.n ≤ 65536 :=
  range_end hc (r := (c.aModDelayBase.toNat, c.n)) (by simp [Params.ranges])

theorem syncTime_end : c.aSyncTime0.toNat + c.syncTimeWords ≤ 65536 :=
  range_end hc (r := (c.aSyncTime0.toNat, c.syncTimeWords)) (by simp [Params.ranges])

theorem cycleTable_disjoint_syncTime :
    (tableLocs c.aCycleBase c.n).Disjoint (tableLocs c.aSyncTime0 c.syncTimeWords) := by
  obtain ⟨hfirst, -⟩ := List.pairwise_cons.1 (ranges_apart hc)
  exact tableLocs_disjoint (cycleTable_end hc) (syncTime_end hc) (hfirst _ (by simp))

theorem ctlReg_notMem_cycleTable : Loc.ctrl c.aCtlReg ∉ tableLocs c.aCycleBase c.n :=
  ctrl_notMem_tableLocs (cycleTable_end hc) (singleReg_apart hc (by simp [Params.singleRegs]) (by simp [Params.ranges]))

theorem ctlReg_notMem_syncTime : Loc.ctrl c.aCtlReg ∉ tableLocs c.aSyncTime0 c.syncTimeWords :=
  ctrl_notMem_tableLocs (syncTime_end hc) (singleReg_apart hc (by simp [Params.singleRegs]) (by simp [Params.ranges]))

end Valid

end Sys2Proof.DeviceTables
end

section
/-! The arrival path of 45_dispatch_apply.md sections 1, 3 and 4: ARRIVE, the synchronous replies and the acknowledgment,
each as what it answers; then the three turns that take a duplicate frame. -/

namespace Sys2Proof.Arrival

open Sys2Proof Sys2Proof.Machine

/-! ## ARRIVE (rules R236 to R239) -/

theorem exec_arrive (e : Entry) (s : State) : exec (.arrive e) s = .next (arriveFrame e s) := rfl

theorem arriveFrame_of_duplicate {e : Entry} {s : State} (h : e.hdr.messageId = s.prevId) :
    arriveFrame e s = { s with pStage := e, pReply := none, pTodo := [.fDuplicate, .ackUpdate] } :=
  ((arriveFrame_cases e s).resolve_right fun ⟨hnew, _⟩ => hnew h).2

theorem arriveFrame_of_new {e : Entry} {s : State} (h : e.hdr.messageId ≠ s.prevId) :
    arriveFrame e s =
      { s with
        pStage := e, pReply := none, pTodo := [commandOf s.cfg e.hdr, .ackUpdate], prevId := e.hdr.messageId
        readsInfo := hasFpga e.hdr.fpgaFlags s.cfg.fpgaReadsFpgaInfo } :=
  ((arriveFrame_cases e s).resolve_left fun ⟨hdup, _⟩ => h hdup).2

/-- Settles O33: the two arms of ARRIVE, by the id. -/
theorem arrivalSelectsTheCommand : Obligations.ArrivalSelectsTheCommand := by
  intro e s
  rw [exec_arrive]
  exact ⟨fun hdup => congrArg _ (arriveFrame_of_duplicate hdup), fun hnew => congrArg _ (arriveFrame_of_new hnew)⟩

/-! ## The synchronous replies (rules R242 to R244) -/

theorem zeroExtend_loByte (w : Word) : (loByte w).zeroExtend 16 = w &&& 0x00FF#16 := by
  apply BitVec.eq_of_toNat_eq
  have hmask : (w &&& 0x00FF#16).toNat = w.toNat % 2 ^ 8 := Nat.and_two_pow_sub_one_eq_mod w.toNat 8
  rw [hmask, BitVec.toNat_setWidth, loByte_toNat]
  omega

theorem zeroExtend_hiByte (w : Word) : (hiByte w).zeroExtend 16 = w >>> 8 := by
  apply BitVec.eq_of_toNat_eq
  have hw := w.isLt
  rw [BitVec.toNat_ushiftRight, Nat.shiftRight_eq_div_pow, BitVec.toNat_setWidth, hiByte_toNat]
  omega

theorem exec_fRdCpuVersion (s : State) : exec .fRdCpuVersion s = .next (setReply s.cfg.cpuVersion s) := rfl

theorem exec_fRdFpgaVersion (s : State) :
    exec .fRdFpgaVersion s = .next (setReply (loByte (nextAnswer s)) (bramRead .p (.ctrl s.cfg.aVersion) s)) := rfl

theorem exec_fRdFpgaFunction (s : State) :
    exec .fRdFpgaFunction s = .next (setReply (hiByte (nextAnswer s)) (bramRead .p (.ctrl s.cfg.aVersion) s)) := rfl

/-- The environment's next answer, where one is listed (20_memory.md rule R61). -/
theorem nextAnswer_of_answers {s : State} {v : Word} {rest : List Word} (h : s.answers = v :: rest) :
    nextAnswer s = v := by
  rw [nextAnswer, h]
  rfl

/-- Settles O36: each reply is a byte of the parameter or of the word read, zero-extended. -/
theorem versionReadsReplyOneByte : Obligations.VersionReadsReplyOneByte := by
  intro s
  rw [exec_fRdCpuVersion, exec_fRdFpgaVersion, exec_fRdFpgaFunction]
  refine ⟨rfl, ?_, ?_, fun _ _ => nextAnswer_of_answers⟩
  · rw [← zeroExtend_loByte]
    rfl
  · rw [← zeroExtend_hiByte]
    rfl

/-! ## The acknowledgment (rules R255 and R256) -/

theorem exec_ackEmit (s : State) : exec .ackEmit s = .next { s with ackOut := s.ack } := rfl

theorem exec_ackUpdate (s : State) : exec .ackUpdate s = .next (updateAck s) := rfl

section Update

variable {s : State}

theorem updateAck_of_readsInfo (h : s.readsInfo = true) :
    updateAck s = setAck (loByte (nextAnswer s)) (bramRead .p (.ctrl s.cfg.aFpgaInfo) s) := if_pos h

theorem updateAck_of_not_readsInfo (h : s.readsInfo = false) : updateAck s = setAck (ackLow s) s :=
  if_neg (Bool.eq_false_iff.1 h)

theorem ackLow_of_reply {r : Word} (h : s.pReply = some r) : ackLow s = loByte r := by
  rw [ackLow, h]

theorem ackLow_of_no_reply (h : s.pReply = none) : ackLow s = loByte s.ack := by
  rw [ackLow, h]

theorem hiByte_ack_updateAck (s : State) : hiByte (updateAck s).ack = s.prevId := by
  obtain ⟨_, _, _, _, hshape⟩ := updateAck_shape s
  rw [hshape]
  exact hiByte_wordOf ..

/-- Without a reply the low byte is the status byte where it is wanted, else as it was. -/
theorem loByte_ack_updateAck (h : s.pReply = none) :
    loByte (updateAck s).ack = if s.readsInfo then loByte (nextAnswer s) else loByte s.ack := by
  cases hinfo : s.readsInfo with
  | true =>
    rw [updateAck_of_readsInfo hinfo]
    exact loByte_wordOf ..
  | false =>
    rw [updateAck_of_not_readsInfo hinfo, ackLow_of_no_reply h]
    exact loByte_wordOf ..

end Update

/-- Settles O38: ACK.EMIT by its meaning; ACK.UPDATE by the three sources of the low byte. -/
theorem acknowledgmentIsRecomputedAndRedriven : Obligations.AcknowledgmentIsRecomputedAndRedriven := by
  intro s
  refine ⟨exec_ackEmit s, fun hinfo => ?_, fun r hinfo hreply => ?_, fun hinfo hreply => ?_⟩
  · rw [exec_ackUpdate, updateAck_of_readsInfo hinfo]
    rfl
  · rw [exec_ackUpdate, updateAck_of_not_readsInfo hinfo, ackLow_of_reply hreply]
    rfl
  · rw [exec_ackUpdate, updateAck_of_not_readsInfo hinfo, ackLow_of_no_reply hreply]
    rfl

/-! ## The image of a frame (30_encoding.md rules R91 and R92) -/

theorem wordsOf_bytesOf (ws : List Word) : wordsOf (bytesOf ws) = ws := by
  induction ws with
  | nil => rfl
  | cons w ws ih => rw [bytesOf, wordsOf, ih, wordOf_lo_hi]

theorem length_bytesOf (ws : List Word) : (bytesOf ws).length = 2 * ws.length := by
  induction ws with
  | nil => rfl
  | cons w ws ih =>
    simp only [bytesOf, List.length_cons, ih]
    omega

theorem length_encodeEntry (e : Entry) : (encodeEntry e).length = 4 + Config.modBodyBytes + 2 * e.body.length := by
  simp only [encodeEntry, List.length_cons, List.length_append, Vector.length_toList, length_bytesOf]
  omega

theorem parseHeader_encodeEntry (e : Entry) : parseHeader (encodeEntry e) = some (e.hdr, bytesOf e.body) := by
  have hlen : e.hdr.payload.toList.length = Config.modBodyBytes := Vector.length_toList
  have htake : (e.hdr.payload.toList ++ bytesOf e.body).take Config.modBodyBytes = e.hdr.payload.toList :=
    List.take_left' hlen
  have hdrop : (e.hdr.payload.toList ++ bytesOf e.body).drop Config.modBodyBytes = bytesOf e.body :=
    List.drop_left' hlen
  simp only [encodeEntry, parseHeader, htake, hdrop, List.size_toArray, hlen, dif_pos]
  rfl

theorem decodeFrame_encodeEntry {c : Params} {e : Entry} (h : e.body.length = c.n) :
    decodeFrame c (encodeEntry e) = .ok (.arrive e) := by
  have hlen : (encodeEntry e).length = imageBytes c := by rw [length_encodeEntry, h]
  simp only [decodeFrame, if_pos hlen, parseHeader_encodeEntry, wordsOf_bytesOf]

/-! ## Turns of domain P -/

theorem run_succ_of_next {s t : State} (k : Nat) (h : step s = .next t) : core.run (k + 1) s = core.run k t := by
  have hstep : core.step s = .next t := h
  simp only [Host.Core.run, hstep]

theorem run_one_of_next {s t : State} (h : step s = .next t) : core.run 1 s = .next t := run_succ_of_next 0 h

section Turns

variable {s : State} {ts : List Turn} (hsched : s.sched = .p :: ts) (hpend : s.pPending = [])

include hsched hpend

/-- The operation that is next of the ARRIVE in progress runs. -/
theorem step_of_pTodo {i : Instr} {is : List Instr} {t : State} (htodo : s.pTodo = i :: is)
    (hi : interleaves i = false) (hexec : exec i { s with sched := ts, pTodo := is } = .next t) : step s = .next t := by
  have hfetch : fetch s = .run .p i { s with sched := ts, pTodo := is } := by simp [fetch, hsched, fetchP, hpend, htodo]
  exact (step_next s t).2 (.inr (.inl ⟨.p, i, _, t, hfetch, hexec, by simp [endTurn, hi]⟩))

/-- A frame at the port of an idle agent P is taken by ARRIVE (rule R235). -/
theorem step_of_frame {e : Entry} {rs : List Request} (htodo : s.pTodo = []) (hin : s.pIn = .frame (encodeEntry e) :: rs)
    (hbody : e.body.length = s.cfg.n) : step s = .next (arriveFrame e { s with sched := ts, pIn := rs }) := by
  have hdecode : decodeRequest s.cfg .p (.frame (encodeEntry e)) = .ok (.arrive e) := decodeFrame_encodeEntry hbody
  have hwf : (Instr.arrive e).wellFormed s.cfg = true := beq_iff_eq.2 hbody
  have hfetch : fetch s = .run .p (.arrive e) { s with sched := ts, pIn := rs } := by
    simp [fetch, hsched, fetchP, hpend, htodo, hin, offer, hdecode, hwf]
  exact (step_next s _).2 (.inr (.inl ⟨.p, .arrive e, _, _, hfetch, rfl, rfl⟩))

end Turns

/-- Agent P in the ARRIVE of a duplicate frame, the operations `todo` and the turns `ts` left
(`step_of_duplicate`). -/
def takingDuplicate (s : State) (e : Entry) (rs : List Request) (todo : List Instr) (ts : List Turn) : State :=
  { s with sched := ts, pIn := rs, pStage := e, pReply := none, pTodo := todo }

theorem step_of_duplicate {s : State} {e : Entry} {rs : List Request} {ts : List Turn} (hsched : s.sched = .p :: ts)
    (hpend : s.pPending = []) (htodo : s.pTodo = []) (hin : s.pIn = .frame (encodeEntry e) :: rs)
    (hbody : e.body.length = s.cfg.n) (hdup : e.hdr.messageId = s.prevId) :
    step s = .next (takingDuplicate s e rs [.fDuplicate, .ackUpdate] ts) :=
  (step_of_frame hsched hpend htodo hin hbody).trans
    (congrArg _ (arriveFrame_of_duplicate (s := { s with sched := ts, pIn := rs }) hdup))

theorem step_takingDuplicate {s t : State} {e : Entry} {rs : List Request} {i : Instr} {is : List Instr}
    {ts : List Turn} (hpend : s.pPending = []) (hi : interleaves i = false)
    (hexec : exec i (takingDuplicate s e rs is ts) = .next t) :
    step (takingDuplicate s e rs (i :: is) (.p :: ts)) = .next t :=
  step_of_pTodo (s := takingDuplicate s e rs (i :: is) (.p :: ts)) rfl hpend rfl hi hexec

/-- Settles O39: the frame is taken, F.DUPLICATE changes nothing, and ACK.UPDATE finds no reply. -/
theorem duplicateFrameOnlyRefreshesTheAck : Obligations.DuplicateFrameOnlyRefreshesTheAck := by
  intro s e ts rs hsched hpend htodo hin hbody hdup
  have harrive := step_of_duplicate hsched hpend htodo hin hbody hdup
  have hnothing : step (takingDuplicate s e rs [.fDuplicate, .ackUpdate] (.p :: .p :: ts)) =
      .next (takingDuplicate s e rs [.ackUpdate] (.p :: ts)) :=
    step_takingDuplicate hpend rfl rfl
  have hack : step (takingDuplicate s e rs [.ackUpdate] (.p :: ts)) =
      .next (updateAck (takingDuplicate s e rs [] ts)) :=
    step_takingDuplicate hpend rfl rfl
  refine ⟨updateAck (takingDuplicate s e rs [] ts), ?_, ?_, hiByte_ack_updateAck _, loByte_ack_updateAck rfl⟩
  · rw [run_succ_of_next 2 harrive, run_succ_of_next 1 hnothing, run_one_of_next hack]
  · obtain ⟨_, _, _, _, hshape⟩ := updateAck_shape (takingDuplicate s e rs [] ts)
    rw [hshape, takingDuplicate, ← htodo]

end Sys2Proof.Arrival
end

section
/-! The commands of 45_dispatch_apply.md section 2 that only store words in the device, as lists of device writes:
A.CONFIG_SILENCER, A.MOD_DELAY and A.DRIVE; and TICK. -/

namespace Sys2Proof.ApplyEngine

open Sys2Proof Sys2Proof.Machine Sys2Proof.DeviceWrites Sys2Proof.LastWrites Sys2Proof.DeviceTables

/-! ## A.CONFIG_SILENCER (rule R247) -/

theorem payloadByte_of_lt (h : Header) (d : Nat) {i : Nat} (hi : i < 124) : payloadByte h d i = h.payload[i] := by
  simp [payloadByte, elemOr, hi]

/-- The two writes of the silencer, step before cycle (`exec_aConfigSilencer`). -/
def silencerWrites (c : Params) (h : Header) : List (Loc × Word) :=
  [(.ctrl c.aSilentStep, h.payload[1] ++ h.payload[0]), (.ctrl c.aSilentCycle, h.payload[3] ++ h.payload[2])]

theorem silencerStep_eq (h : Header) (d : Nat) : silencerStep h d = h.payload[1] ++ h.payload[0] := by
  rw [silencerStep, payloadByte_of_lt h d (by decide), payloadByte_of_lt h d (by decide), wordOf]

theorem silencerCycle_eq (h : Header) (d : Nat) : silencerCycle h d = h.payload[3] ++ h.payload[2] := by
  rw [silencerCycle, payloadByte_of_lt h d (by decide), payloadByte_of_lt h d (by decide), wordOf]

theorem exec_aConfigSilencer (s : State) :
    exec .aConfigSilencer s = .next (bramWrites .q (silencerWrites s.cfg s.qStage.hdr) s) := by
  rw [silencerWrites, ← silencerStep_eq _ s.draws, ← silencerCycle_eq _ s.draws]
  rfl

theorem silencerWrites_region (c : Params) (h : Header) : ∀ w ∈ silencerWrites c h, regionCode w.1 = 0 := by
  simp [silencerWrites, regionCode]

theorem silencerWrites_nodup {c : Params} (hc : c.Valid) (h : Header) : ((silencerWrites c h).map Prod.fst).Nodup :=
  ctrlLocs_nodup (silencerRegs_nodup hc)

/-- Settles O46: two writes to two registers. -/
theorem silencerFrameWritesTwoRegisters : Obligations.SilencerFrameWritesTwoRegisters := by
  intro s hc hwf
  have hnodup := silencerWrites_nodup hc s.qStage.hdr
  refine ⟨_, exec_aConfigSilencer s, bramWrites_eq .q _ s, newRequests_eq _ _ _ (bramWrites_bus .q _ s), ?_, ?_, ?_⟩
  · exact ctrlReg_bramWrites_of_nodup .q hwf hnodup (List.mem_cons_self ..)
  · exact ctrlReg_bramWrites_of_nodup .q hwf hnodup (List.mem_cons_of_mem _ (List.mem_cons_self ..))
  · exact sameBytesOutside_bramWrites_ctrl .q hwf (silencerWrites_region s.cfg s.qStage.hdr)

/-! ## A.MOD_DELAY (rule R249) -/

theorem exec_aModDelay {s : State} (h : s.qStage.body.length = s.cfg.n) :
    exec .aModDelay s = .next
      { bramWrites .q (tableWrites s.cfg.aModDelayBase s.cfg.n fun i => s.qStage.body.getD i 0#16) s with
        draws := s.draws + 1 } := by
  rw [← copyTo_bodyWords s.cfg.aModDelayBase s.draws h]
  rfl

/-- Settles O47: the table ends inside its region, so no word of it is written twice. -/
theorem delayFrameCopiesTheBody : Obligations.DelayFrameCopiesTheBody := by
  intro s hc hwf hbody
  have hnodup := tableLocs_nodup (delayTable_end hc)
  refine ⟨_, exec_aModDelay hbody, ?_, ?_, fun i hi => ?_, ?_⟩
  · rw [bramWrites_eq]
  · refine newRequests_eq s _ _ ?_
    rw [← tableWrites_requests]
    exact bramWrites_bus .q _ s
  · exact ctrlReg_bramWrites_of_nodup .q hwf (by rwa [tableWrites_locs]) (mem_tableWrites _ hi)
  · have hframe := sameBytesOutside_bramWrites_ctrl (s := s) .q hwf
      (tableWrites_region s.cfg.aModDelayBase s.cfg.n fun i => s.qStage.body.getD i 0#16)
    rwa [tableWrites_locs] at hframe

/-! ## A.DRIVE (rule R248) -/

/-- The writes that the open function `DRIVE_WRITE` lists for a frame (`exec_aDrive`). -/
def driveWrites (c : Params) (e : Entry) : List (Loc × Word) :=
  (Config.driveWrite c e.hdr e.body).map fun x => (.drvt (BitVec.ofNat 16 x.1.val), x.2)

theorem exec_aDrive (s : State) : exec .aDrive s = .next (bramWrites .q (driveWrites s.cfg s.qStage) s) := rfl

theorem driveWrites_region (c : Params) (e : Entry) : ∀ w ∈ driveWrites c e, regionCode w.1 ≠ 0 :=
  List.forall_mem_map.2 fun _ _ => Nat.succ_ne_zero 1

theorem driveWrites_locs (c : Params) (e : Entry) :
    (driveWrites c e).map Prod.fst =
      (Config.driveWrite c e.hdr e.body).map fun x => .drvt (BitVec.ofNat 16 x.1.val) := List.map_map

theorem driveWrites_requests (d : Domain) (c : Params) (e : Entry) :
    ((driveWrites c e).map fun w => BusReq.write d w.1 w.2) =
      (Config.driveWrite c e.hdr e.body).map fun x => .write d (.drvt (BitVec.ofNat 16 x.1.val)) x.2 := List.map_map

theorem lastWrite_driveWrites (c : Params) (e : Entry) (a : Word) :
    lastWrite (.drvt a) (driveWrites c e) =
      ((Config.driveWrite c e.hdr e.body).filter fun x => BitVec.ofNat 16 x.1.val = a).getLast?.map Prod.snd := by
  simp [lastWrite, driveWrites, List.filter_map, Function.comp_def]

/-- `DRIVE_WRITE` lists addresses below `DRV_WORDS` alone. -/
theorem drvt_notMem_driveWrites {c : Params} (e : Entry) {a : Word} (ha : c.drvWords ≤ a.toNat) :
    Loc.drvt a ∉ (driveWrites c e).map Prod.fst := by
  rw [driveWrites_locs]
  intro hmem
  obtain ⟨x, -, hx⟩ := List.mem_map.1 hmem
  have hlt : x.1.val < c.drvWords := x.1.isLt
  have haddr : x.1.val % 65536 = a.toNat := congrArg BitVec.toNat (Loc.drvt.inj hx)
  omega

/-- Settles O48: no write of the list moves a location, so each word is the last one written to it. -/
theorem driveFrameMakesTheListedWrites : Obligations.DriveFrameMakesTheListedWrites := by
  intro s hwf
  have hread (a : Word) :=
    readWord_bramWrites_of_region_last .q hwf (driveWrites_region s.cfg s.qStage) (.drvt a)
  have hframe := sameBytesOutside_bramWrites_of_region .q hwf (driveWrites_region s.cfg s.qStage)
  refine ⟨_, exec_aDrive s, bramWrites_eq .q _ s, newRequests_eq _ _ _ ?_, fun a => ?_, fun a ha => ?_, ?_⟩
  · rw [← driveWrites_requests]
    exact bramWrites_bus .q _ s
  · rw [hread, lastWrite_driveWrites]
  · rw [hread, lastWrite_of_notMem (drvt_notMem_driveWrites s.qStage ha)]
    rfl
  · rwa [driveWrites_locs] at hframe

/-! ## TICK (rules R240 and R251) -/

theorem exec_tick (s : State) : exec .tick s = .next (startTick s) := rfl

theorem startTick_of_empty {s : State} (h : s.rdGray = s.wrGrayQ) :
    startTick s = { s with qEntry := none, emitDue := s.emitDue + 1 } := by
  obtain ⟨-, htick⟩ | ⟨hseen, -⟩ := startTick_cases s
  · exact htick
  · exact absurd h (Mailbox.emptyQ_eq_false.1 hseen)

/-- The entry `e` popped and staged, its commands selected: TICK but for its device write (`startTick_of_entry`). -/
def stagedTick (s : State) (e : Entry) : State :=
  { s with
    qEntry := some e, qStage := e, qBusy := true, qTodo := applyCommands s.cfg e.hdr
    rdBin := s.rdBin + 1#5, rdGray := gray5 (s.rdBin + 1#5), emitDue := s.emitDue + 1 }

theorem startTick_of_entry {s : State} (h : s.rdGray ≠ s.wrGrayQ) :
    startTick s =
      bramWrite .q (.ctrl s.cfg.aCtlReg)
        ((s.slots[s.rdBin.toNat]'s.rdBin.isLt).hdr.fpgaFlags.zeroExtend 16)
        (stagedTick s (s.slots[s.rdBin.toNat]'s.rdBin.isLt)) := by
  obtain ⟨hempty, -⟩ | ⟨-, hpop⟩ := popEntry_cases { s with emitDue := s.emitDue + 1 }
  · exact absurd (Mailbox.emptyQ_eq_true.1 hempty) h
  · rw [startTick, hpop]
    rfl

/-- Settles O40: the pop's two arms; the flags are one register write. -/
theorem tickPopsAndSelects : Obligations.TickPopsAndSelects := by
  intro s hwf
  refine ⟨fun hempty => (exec_tick s).trans (congrArg _ (startTick_of_empty hempty)), fun hentry =>
    ⟨_, _, rfl, (exec_tick s).trans (congrArg _ (startTick_of_entry hentry)), rfl, ?_, ?_⟩⟩
  · exact RingWriter.ctrlReg_bramWrite_same (s := stagedTick s _) .q _ _ hwf
  · exact RingWriter.sameBytesOutside_bramWrite_ctrl (s := stagedTick s _) .q _ _ hwf

end Sys2Proof.ApplyEngine
end

section
/-! The two commands of 45_dispatch_apply.md section 3 that write the device from domain P: F.SYNCHRONIZE (rule R254) and
F.CLEAR (rule R252), each as one list of device writes. -/

namespace Sys2Proof.DomainPWrites

open Sys2Proof Sys2Proof.Machine Sys2Proof.DeviceWrites Sys2Proof.LastWrites Sys2Proof.DeviceTables

/-! ## F.SYNCHRONIZE (rule R254) -/

/-- The writes of F.SYNCHRONIZE by index: the cycle table, the timestamp, the control register (`syncWrites_eq`). -/
def syncTableWrites (c : Params) (e : Entry) : List (Loc × Word) :=
  tableWrites c.aCycleBase c.n (fun i => e.body.getD i 0#16) ++
    tableWrites c.aSyncTime0 c.syncTimeWords (Config.syncTimeOf e.hdr) ++
    [(.ctrl c.aCtlReg, e.hdr.fpgaFlags.zeroExtend 16 ||| c.fpgaSync)]

theorem syncWrites_eq {c : Params} {e : Entry} (d : Nat) (h : e.body.length = c.n) :
    syncWrites c e d = syncTableWrites c e := by
  rw [syncWrites, syncTableWrites, copyTo_bodyWords c.aCycleBase d h, syncTimeWords, copyTo_ctrl]

theorem exec_fSynchronize {s : State} (h : s.pStage.body.length = s.cfg.n) :
    exec .fSynchronize s = .next
      { bramWrites .p (syncTableWrites s.cfg s.pStage) s with
        cycleTab := s.pStage.body, tabOld := some s.cycleTab, draws := s.draws + 1 } := by
  have hsync : exec .fSynchronize s = .next (synchronize s) := rfl
  rw [hsync, synchronize, syncWrites_eq s.draws h, bodyWords_eq s.draws h]

section Synchronize

variable (c : Params) (e : Entry)

theorem syncTableWrites_locs : (syncTableWrites c e).map Prod.fst =
    tableLocs c.aCycleBase c.n ++ tableLocs c.aSyncTime0 c.syncTimeWords ++ [.ctrl c.aCtlReg] := by
  rw [syncTableWrites, List.map_append, List.map_append, tableWrites_locs, tableWrites_locs]
  rfl

theorem syncTableWrites_requests (d : Domain) : ((syncTableWrites c e).map fun w => BusReq.write d w.1 w.2) =
    ((List.range c.n).map fun i => .write d (.ctrl (c.aCycleBase + BitVec.ofNat 16 i)) (e.body.getD i 0#16)) ++
      ((List.range c.syncTimeWords).map fun j =>
        .write d (.ctrl (c.aSyncTime0 + BitVec.ofNat 16 j)) (Config.syncTimeOf e.hdr j)) ++
      [.write d (.ctrl c.aCtlReg) (e.hdr.fpgaFlags.zeroExtend 16 ||| c.fpgaSync)] := by
  rw [syncTableWrites, List.map_append, List.map_append, tableWrites_requests, tableWrites_requests]
  rfl

theorem syncTableWrites_region : ∀ w ∈ syncTableWrites c e, regionCode w.1 = 0 :=
  List.forall_mem_append.2 ⟨List.forall_mem_append.2 ⟨tableWrites_region _ _ _, tableWrites_region _ _ _⟩,
    List.forall_mem_singleton.2 rfl⟩

/-- Rule R5 keeps the two tables and the control register apart. -/
theorem syncTableWrites_nodup (hc : c.Valid) : ((syncTableWrites c e).map Prod.fst).Nodup := by
  rw [syncTableWrites_locs, ← List.concat_eq_append]
  refine List.Nodup.concat (fun hmem => ?_) ?_
  · exact (List.mem_append.1 hmem).elim (ctlReg_notMem_cycleTable hc) (ctlReg_notMem_syncTime hc)
  · exact (tableLocs_nodup (cycleTable_end hc)).append (tableLocs_nodup (syncTime_end hc))
      (cycleTable_disjoint_syncTime hc)

end Synchronize

/-- Settles O37: no register of the list is written twice, so each holds the word the list gives it. -/
theorem synchronizeWritesTheTables : Obligations.SynchronizeWritesTheTables := by
  intro s hc hwf hbody
  have hheld {a v : Word} (hmem : (.ctrl a, v) ∈ syncTableWrites s.cfg s.pStage) :
      (bramWrites .p (syncTableWrites s.cfg s.pStage) s).ctrlReg a = v :=
    ctrlReg_bramWrites_of_nodup .p hwf (syncTableWrites_nodup s.cfg s.pStage hc) hmem
  have hframe := sameBytesOutside_bramWrites_ctrl .p hwf (syncTableWrites_region s.cfg s.pStage)
  refine ⟨_, exec_fSynchronize hbody, ?_, ?_, fun i hi => hheld ?_, fun j hj => hheld ?_, hheld ?_, ?_⟩
  · rw [bramWrites_eq]
  · refine newRequests_eq s _ _ ?_
    rw [← syncTableWrites_requests]
    exact bramWrites_bus .p _ s
  · exact List.mem_append_left _ (List.mem_append_left _ (mem_tableWrites _ hi))
  · exact List.mem_append_left _ (List.mem_append_right _ (mem_tableWrites _ hj))
  · exact List.mem_append_right _ (List.mem_singleton_self _)
  · rwa [syncTableWrites_locs, storedBytes_append, storedBytes_append] at hframe

/-! ## F.CLEAR (rule R252) -/

/-- The register writes of the global clear (`globalClear_eq`). -/
def clearRegWrites (c : Params) : List (Loc × Word) :=
  [(.ctrl c.aCtlReg, c.fpgaLegacyMode), (.ctrl c.aSilentStep, c.silentStepDefault),
    (.ctrl c.aSilentCycle, c.silentCycleDefault), (.ctrl c.aModAddrOffset, 0#16), (.ctrl c.aStmAddrOffset, 0#16)]

/-- The locations of the tables that the global clear fills with zero, after its register writes. -/
def clearedLocs (c : Params) : List Loc :=
  .modt 0#14 :: (List.range c.drvWords).map fun a => .drvt (BitVec.ofNat 16 a)

/-- The table writes of the global clear (`globalClear_eq`). -/
def clearTableWrites (c : Params) : List (Loc × Word) := (clearedLocs c).map fun l => (l, 0#16)

theorem clearWrites_eq (c : Params) :
    clearWrites c =
      [(.ctrl c.aModAddrOffset, 0#16), (.ctrl c.aStmAddrOffset, 0#16)] ++ clearTableWrites c := by
  rw [clearWrites, fillAt_drvt, clearTableWrites, clearedLocs, List.map_cons, List.map_map]
  rfl

theorem clearTableWrites_locs (c : Params) : (clearTableWrites c).map Prod.fst = clearedLocs c := by
  simp [clearTableWrites, Function.comp_def]

/-- The state after all device writes of the global clear, nothing else of it done (`globalClear_eq`). -/
def clearedDevice (s : State) : State := bramWrites .p (clearRegWrites s.cfg ++ clearTableWrites s.cfg) s

theorem clearedDevice_split (s : State) :
    clearedDevice s = bramWrites .p (clearTableWrites s.cfg) (bramWrites .p (clearRegWrites s.cfg) s) :=
  bramWrites_append ..

theorem clearedDevice_eq (s : State) :
    clearedDevice s = { s with mem := (clearedDevice s).mem, bus := (clearedDevice s).bus } := bramWrites_eq ..

theorem clearedDevice_cfg (s : State) : (clearedDevice s).cfg = s.cfg := bramWrites_cfg ..

/-- Between its two lists of writes the clear resets the counters, which no device write looks at. -/
theorem globalClear_device (s : State) :
    (globalClear s).mem = (clearedDevice s).mem ∧ (globalClear s).bus = (clearedDevice s).bus := by
  have hlists : clearRegWrites s.cfg ++ clearTableWrites s.cfg =
      [(.ctrl s.cfg.aCtlReg, s.cfg.fpgaLegacyMode), (.ctrl s.cfg.aSilentStep, s.cfg.silentStepDefault),
        (.ctrl s.cfg.aSilentCycle, s.cfg.silentCycleDefault)] ++ clearWrites s.cfg := by
    rw [clearWrites_eq]
    rfl
  rw [clearedDevice, hlists, bramWrites_append]
  constructor
  · exact bramWrites_mem_domain .p .p _ _ _ rfl rfl
  · rw [bramWrites_bus]
    exact bramWrites_bus .p _ _

theorem globalClear_eq (s : State) :
    globalClear s =
      { clearedDevice s with
        readsInfo := false, ack := 0#16, modCycle := 2#32, stmCycle := 0#32, wDone := true
        wrBin := 0#5, wrGray := 0#5, rdGrayP := 0#5, rdBin := 0#5, rdGray := 0#5, wrGrayQ := 0#5
        slots := Vector.replicate 32 (zeroEntry s.cfg), pStage := zeroEntry s.cfg, qStage := zeroEntry s.cfg } := by
  obtain ⟨hmem, hbus⟩ := globalClear_device s
  obtain ⟨m, b, hshape, -⟩ := globalClear_shape s
  rw [hshape] at hmem hbus ⊢
  rw [clearedDevice_eq, ← hmem, ← hbus]

section Clear

variable {s : State}

theorem clearRegWrites_region (c : Params) : ∀ w ∈ clearRegWrites c, regionCode w.1 = 0 := by
  simp [clearRegWrites, regionCode]

theorem clearTableWrites_region (c : Params) : ∀ w ∈ clearTableWrites c, regionCode w.1 ≠ 0 := by
  simp [clearTableWrites, clearedLocs, regionCode]

theorem clearRegWrites_nodup {c : Params} (hc : c.Valid) : ((clearRegWrites c).map Prod.fst).Nodup :=
  ctrlLocs_nodup (clearRegs_nodup hc)

/-- The fill of the tables leaves the registers as the clear wrote them. -/
theorem ctrlReg_clearedDevice (hc : s.cfg.Valid) (hwf : s.mem.wf = true) {a v : Word}
    (hmem : (.ctrl a, v) ∈ clearRegWrites s.cfg) : (clearedDevice s).ctrlReg a = v := by
  rw [clearedDevice_split, ctrlReg_bramWrites_of_region .p (bramWrites_wf .p _ s hwf) (clearTableWrites_region s.cfg)]
  exact ctrlReg_bramWrites_of_nodup .p hwf (clearRegWrites_nodup hc) hmem

theorem modBase_clearedDevice (hc : s.cfg.Valid) (hwf : s.mem.wf = true) : (clearedDevice s).modBase = 0#16 := by
  rw [State.modBase, clearedDevice_cfg]
  exact ctrlReg_clearedDevice hc hwf (by simp [clearRegWrites])

theorem stmBase_clearedDevice (hc : s.cfg.Valid) (hwf : s.mem.wf = true) : (clearedDevice s).stmBase = 0#16 := by
  rw [State.stmBase, clearedDevice_cfg]
  exact ctrlReg_clearedDevice hc hwf (by simp [clearRegWrites])

/-- The fill reaches the tables where they are after the register writes, and leaves them there. -/
theorem byteAddr_clearedDevice (hwf : s.mem.wf = true) (l : Loc) :
    (clearedDevice s).byteAddr l = (bramWrites .p (clearRegWrites s.cfg) s).byteAddr l := by
  rw [clearedDevice_split]
  exact byteAddr_bramWrites_of_region .p (bramWrites_wf .p _ s hwf) (clearTableWrites_region s.cfg) l

theorem readWord_clearedDevice (hwf : s.mem.wf = true) {l : Loc} (hl : l ∈ clearedLocs s.cfg) :
    (clearedDevice s).mem.readWord ((clearedDevice s).byteAddr l) = 0#16 := by
  rw [byteAddr_clearedDevice hwf, clearedDevice_split]
  refine readWord_bramWrites_of_mem .p (bramWrites_wf .p _ s hwf) (clearTableWrites_region s.cfg)
    (List.mem_map_of_mem hl) fun w hw _ => ?_
  obtain ⟨_, -, rfl⟩ := List.mem_map.1 hw
  rfl

theorem sameBytesOutside_clearedDevice (hwf : s.mem.wf = true) :
    SameBytesOutside s (clearedDevice s)
      (storedBytes s ((clearRegWrites s.cfg).map Prod.fst) ++ storedBytes (clearedDevice s) (clearedLocs s.cfg)) := by
  have hregs := sameBytesOutside_bramWrites_ctrl .p hwf (clearRegWrites_region s.cfg)
  have htables := sameBytesOutside_bramWrites_of_region .p (bramWrites_wf .p (clearRegWrites s.cfg) s hwf)
    (clearTableWrites_region s.cfg)
  have hboth := sameBytesOutside_trans hregs htables
  simp only [storedBytes, byteAddr_clearedDevice hwf]
  rw [clearTableWrites_locs, ← clearedDevice_split] at hboth
  exact sameBytesOutside_mono hboth
    (List.append_subset.2 ⟨List.subset_append_right .., List.subset_append_left ..⟩)

end Clear

theorem clear_requests (c : Params) :
    ((clearRegWrites c ++ clearTableWrites c).map fun w => BusReq.write .p w.1 w.2) =
      [.write .p (.ctrl c.aCtlReg) c.fpgaLegacyMode, .write .p (.ctrl c.aSilentStep) c.silentStepDefault,
        .write .p (.ctrl c.aSilentCycle) c.silentCycleDefault, .write .p (.ctrl c.aModAddrOffset) 0#16,
        .write .p (.ctrl c.aStmAddrOffset) 0#16, .write .p (.modt 0#14) 0#16] ++
      (List.range c.drvWords).map fun a => .write .p (.drvt (BitVec.ofNat 16 a)) 0#16 := by
  simp [clearRegWrites, clearTableWrites, clearedLocs, Function.comp_def]

theorem held_of_same_cursor {s : State} (h : s.rdBin = s.wrBin) : held s = [] := by simp [held, Machine.dist, h]

/-- Settles O35: the wait by `q_busy`; the clear as the register writes, then the fill of the tables under the
segment-base registers just written. -/
theorem globalClearReinitialises : Obligations.GlobalClearReinitialises := by
  refine ⟨fun s hbusy => ?_, fun s hc hwf hidle => ?_⟩
  · rw [Mailbox.exec_fClear, if_pos hbusy]
    rfl
  · have hexec : exec .fClear s = .next (globalClear s) := by
      rw [Mailbox.exec_fClear, if_neg (Bool.eq_false_iff.1 hidle)]
    rw [globalClear_eq] at hexec
    refine ⟨_, hexec, ?_, held_of_same_cursor rfl, newRequests_eq s _ _ ?_, ctrlReg_clearedDevice hc hwf ?_,
      ctrlReg_clearedDevice hc hwf ?_, ctrlReg_clearedDevice hc hwf ?_, modBase_clearedDevice hc hwf,
      stmBase_clearedDevice hc hwf, readWord_clearedDevice hwf (List.mem_cons_self ..),
      fun a ha => readWord_clearedDevice hwf ?_, sameBytesOutside_clearedDevice hwf⟩
    · rw [clearedDevice_eq]
    · rw [← clear_requests]
      exact bramWrites_bus .p _ s
    · simp [clearRegWrites]
    · simp [clearRegWrites]
    · simp [clearRegWrites]
    · exact List.mem_cons_of_mem _ (List.mem_map.2 ⟨a, List.mem_range.2 ha, rfl⟩)

end Sys2Proof.DomainPWrites
end

section
/-! Decoding and encoding (30_encoding.md rules R91, R92, R100 to R102): the fields of a command word say which word it is, the
bytes of an image say which Entry it is, and so the decoders and the encoder undo one another. -/

namespace Sys2Proof.Encoding

open Sys2Proof Sys2Proof.Machine

/-! ## The fields of the command words (rules R100 to R102) -/

theorem wcmdWord_toNat (n : BitVec 16) (ch : BitVec 2) (wop : BitVec 3) :
    (wcmdWord n ch wop).toNat = 256 * n.toNat + 8 * ch.toNat + wop.toNat := by
  have hn := n.isLt
  have hch := ch.isLt
  have hwop := wop.isLt
  simp only [wcmdWord, BitVec.toNat_append]
  rw [← Nat.shiftLeft_add_eq_or_of_lt hwop, ← Nat.shiftLeft_add_eq_or_of_lt hch,
    ← Nat.shiftLeft_add_eq_or_of_lt (b := (0#3).toNat) (by decide), ← Nat.shiftLeft_add_eq_or_of_lt hn]
  simp only [Nat.shiftLeft_eq, BitVec.toNat_ofNat]
  omega

/-- Field `pos` of width `len` of a word, as arithmetic. -/
theorem field_toNat {w : Nat} (x : BitVec w) (pos len : Nat) :
    (x.extractLsb' pos len).toNat = x.toNat / 2 ^ pos % 2 ^ len := by
  rw [BitVec.extractLsb'_toNat, Nat.shiftRight_eq_div_pow]

section Fields

variable (n : BitVec 16) (ch : BitVec 2) (wop : BitVec 3)

theorem wcmdWord_wop : (wcmdWord n ch wop).extractLsb' 0 3 = wop := by
  apply BitVec.eq_of_toNat_eq
  rw [field_toNat, wcmdWord_toNat]
  have := wop.isLt
  omega

theorem wcmdWord_ch : (wcmdWord n ch wop).extractLsb' 3 2 = ch := by
  apply BitVec.eq_of_toNat_eq
  rw [field_toNat, wcmdWord_toNat]
  have := wop.isLt
  have := ch.isLt
  omega

theorem wcmdWord_n : (wcmdWord n ch wop).extractLsb' 8 16 = n := by
  apply BitVec.eq_of_toNat_eq
  rw [field_toNat, wcmdWord_toNat]
  have := wop.isLt
  have := ch.isLt
  have := n.isLt
  omega

theorem wcmdWord_zeroBits :
    (wcmdWord n ch wop).extractLsb' 5 3 = 0#3 ∧ (wcmdWord n ch wop).extractLsb' 24 8 = 0#8 := by
  have := wop.isLt
  have := ch.isLt
  have := n.isLt
  constructor <;> apply BitVec.eq_of_toNat_eq <;> rw [field_toNat, wcmdWord_toNat, BitVec.toNat_ofNat] <;> omega

end Fields

/-- A `WCMD` word whose zero bits are 0 is made of its three fields. -/
theorem eq_wcmdWord {w : BitVec 32} (hlow : w.extractLsb' 5 3 = 0#3) (hhigh : w.extractLsb' 24 8 = 0#8) :
    w = wcmdWord (w.extractLsb' 8 16) (w.extractLsb' 3 2) (w.extractLsb' 0 3) := by
  have hlow' := congrArg BitVec.toNat hlow
  have hhigh' := congrArg BitVec.toNat hhigh
  rw [field_toNat, BitVec.toNat_ofNat] at hlow' hhigh'
  apply BitVec.eq_of_toNat_eq
  rw [wcmdWord_toNat, field_toNat, field_toNat, field_toNat]
  have := w.isLt
  omega

/-! ## The command words (rules R100 to R102) -/

section Write

variable (n : BitVec 16) (src : WSrc)

/-- The words of SEG.WRITE carry the count; which operand they take is up to the channel. -/
theorem decodeWcmd_write_mod : decodeWcmd (wcmdWord n 0 2) src = src.toWords.map (.segWriteMod n) := by
  simp [decodeWcmd, wcmdWord_wop, wcmdWord_ch, wcmdWord_n, wcmdWord_zeroBits]

theorem decodeWcmd_write_pstm : decodeWcmd (wcmdWord n 1 2) src = src.toWords.map (.segWritePstm n) := by
  simp [decodeWcmd, wcmdWord_wop, wcmdWord_ch, wcmdWord_n, wcmdWord_zeroBits]

theorem decodeWcmd_write_gstm : decodeWcmd (wcmdWord n 2 2) src = src.toPasses.map (.segWriteGstm n) := by
  simp [decodeWcmd, wcmdWord_wop, wcmdWord_ch, wcmdWord_n, wcmdWord_zeroBits]

end Write

theorem toWords_map_ok {src : WSrc} {f : List Word → Instr} {i : Instr} (h : src.toWords.map f = .ok i) :
    ∃ ws, i = f ws := by
  cases src with
  | words ws =>
    cases h
    exact ⟨ws, rfl⟩
  | passes ps => cases h

theorem toPasses_map_ok {src : WSrc} {f : List Pass → Instr} {i : Instr} (h : src.toPasses.map f = .ok i) :
    ∃ ps, i = f ps := by
  cases src with
  | words ws => cases h
  | passes ps =>
    cases h
    exact ⟨ps, rfl⟩

/-- An accepted `WCMD` word is the one its operation encodes to: its zero bits are 0, so the fields make the word, and every
field that the selection does not use must be 0. -/
theorem encode_of_decodeWcmd {w : BitVec 32} {src : WSrc} {i : Instr} (h : decodeWcmd w src = .ok i) :
    ∃ src', encode i = some (.wcmd w src') := by
  unfold decodeWcmd at h
  dsimp only at h
  split_ifs at h with hzero hop hch hfields hn
  obtain ⟨hlow, hhigh⟩ : w.extractLsb' 5 3 = 0#3 ∧ w.extractLsb' 24 8 = 0#8 := by simpa using hzero
  rw [eq_wcmdWord hlow hhigh]
  generalize w.extractLsb' 8 16 = n at *
  generalize w.extractLsb' 3 2 = ch at *
  generalize w.extractLsb' 0 3 = wop at *
  have hchlt := ch.isLt
  have fields {c : BitVec 2} {o : BitVec 3} (hc : ch.toNat = c.toNat) (ho : wop.toNat = o.toNat) :
      wcmdWord n ch wop = wcmdWord n c o := by
    rw [BitVec.eq_of_toNat_eq hc, BitVec.eq_of_toNat_eq ho]
  have gain (h0 : ¬ch.toNat = 0) (h1 : ¬ch.toNat = 1) : ch.toNat = 2 := by omega
  have reset (h0 : ¬wop.toNat = 0) (h1 : ¬wop.toNat = 1) (h2 : ¬wop.toNat = 2) (h3 : ¬wop.toNat = 3) :
      wop.toNat = 4 := by omega
  have zeroCount (ho : wop.toNat ≠ 2) : n = 0#16 := by
    by_contra hne
    exact hn ⟨ho, hne⟩
  split at h
  next hw =>
    cases h
    obtain rfl := zeroCount (by omega)
    exact ⟨_, by rw [fields (c := 0) (o := 0) (by simpa [hw] using hfields) hw]; rfl⟩
  next hw hc =>
    cases h
    obtain rfl := zeroCount (by omega)
    exact ⟨_, by rw [fields (c := 0) (o := 1) hc hw]; rfl⟩
  next hw hc =>
    cases h
    obtain rfl := zeroCount (by omega)
    exact ⟨_, by rw [fields (c := 1) (o := 1) hc hw]; rfl⟩
  next hw h0 h1 =>
    cases h
    obtain rfl := zeroCount (by omega)
    exact ⟨_, by rw [fields (c := 2) (o := 1) (gain h0 h1) hw]; rfl⟩
  next hw hc =>
    obtain ⟨ws, rfl⟩ := toWords_map_ok h
    exact ⟨_, by rw [fields (c := 0) (o := 2) hc hw]; rfl⟩
  next hw hc =>
    obtain ⟨ws, rfl⟩ := toWords_map_ok h
    exact ⟨_, by rw [fields (c := 1) (o := 2) hc hw]; rfl⟩
  next hw h0 h1 =>
    obtain ⟨ps, rfl⟩ := toPasses_map_ok h
    exact ⟨_, by rw [fields (c := 2) (o := 2) (gain h0 h1) hw]; rfl⟩
  next hw hc =>
    cases h
    obtain rfl := zeroCount (by omega)
    exact ⟨_, by rw [fields (c := 0) (o := 3) hc hw]; rfl⟩
  next hw hc =>
    cases h
    obtain rfl := zeroCount (by omega)
    exact ⟨_, by rw [fields (c := 1) (o := 3) hc hw]; rfl⟩
  next hw h0 h1 =>
    cases h
    obtain rfl := zeroCount (by omega)
    exact ⟨_, by rw [fields (c := 2) (o := 3) (gain h0 h1) hw]; rfl⟩
  next h0 h1 h2 h3 _ _ _ _ _ _ =>
    cases h
    have hw := reset h0 h1 h2 h3
    have hc : ch.toNat = 0 := by simpa [hw] using hfields
    obtain rfl := zeroCount (by omega)
    exact ⟨_, by rw [fields (c := 0) (o := 4) hc hw]; rfl⟩

/-! ## The command bytes (rules R100 and R101) -/

theorem encode_of_decodePcmd {w : Byte} {e : Entry} {i : Instr} (h : decodePcmd w e = .ok i) :
    ∃ e', encode i = some (.pcmd w e') := by
  unfold decodePcmd at h
  split_ifs at h with hzero
  have hbyte : w.toNat = (w.extractLsb' 0 2).toNat := by
    have hhigh := congrArg BitVec.toNat (not_not.1 hzero)
    rw [field_toNat, BitVec.toNat_ofNat] at hhigh
    rw [field_toNat]
    omega
  rw [← hbyte] at h
  split at h
  next hw =>
    cases h
    exact ⟨_, by rw [BitVec.eq_of_toNat_eq (x := w) (y := 0x00#8) hw]; rfl⟩
  next hw =>
    cases h
    exact ⟨_, by rw [BitVec.eq_of_toNat_eq (x := w) (y := 0x01#8) hw]; rfl⟩
  next hw =>
    cases h
    exact ⟨_, by rw [BitVec.eq_of_toNat_eq (x := w) (y := 0x02#8) hw]; rfl⟩
  next => cases h

theorem encode_of_decodeCcmd {w : Byte} {i : Instr} (h : decodeCcmd w = .ok i) : encode i = some (.ccmd w) := by
  have hcode : ∀ w : Byte, w.extractLsb' 1 7 = 0#7 → w = if w.extractLsb' 0 1 = 0#1 then 0x00#8 else 0x01#8 := by decide
  unfold decodeCcmd at h
  split_ifs at h with hzero hpop
  · cases h
    rw [hcode w (not_not.1 hzero), if_pos hpop]
    rfl
  · cases h
    rw [hcode w (not_not.1 hzero), if_neg hpop]
    rfl

/-! ## Frame images (rules R91 and R92) -/

/-- An even number of bytes is that of a number of words. -/
theorem bytesOf_wordsOf (n : Nat) (bs : List Byte) (h : bs.length = 2 * n) : bytesOf (wordsOf bs) = bs := by
  induction n generalizing bs with
  | zero =>
    obtain rfl := List.eq_nil_of_length_eq_zero h
    rfl
  | succ n ih =>
    obtain ⟨lo, hi, rest, rfl⟩ : ∃ lo hi rest, bs = lo :: hi :: rest := by
      match bs, h with
      | lo :: hi :: rest, _ => exact ⟨lo, hi, rest, rfl⟩
    rw [wordsOf, bytesOf, loByte_wordOf, hiByte_wordOf, ih rest (by simpa [Nat.mul_add] using h)]

/-- A Header is read from its 128 bytes, which are then followed by the rest. -/
theorem image_of_parseHeader {image rest : List Byte} {h : Header} (hp : parseHeader image = some (h, rest)) :
    image = h.messageId :: h.fpgaFlags :: h.cpuFlags :: h.size :: (h.payload.toList ++ rest) := by
  unfold parseHeader at hp
  split at hp
  · split_ifs at hp
    cases hp
    simp [Vector.toList]
  · cases hp

theorem encode_of_decodeFrame {c : Params} {image : List Byte} {i : Instr} (h : decodeFrame c image = .ok i) :
    encode i = some (.frame image) := by
  unfold decodeFrame at h
  split_ifs at h with hlen
  split at h
  next hdr rest hp =>
    cases h
    have himage := image_of_parseHeader hp
    have hrest : rest.length = 2 * c.n := by
      rw [himage] at hlen
      simp only [imageBytes, List.length_cons, List.length_append, Vector.length_toList] at hlen
      omega
    rw [encode, encodeEntry, bytesOf_wordsOf c.n rest hrest, ← himage]
  next => cases h

/-! ## The statements -/

/-- Settles O1: each operation that a port selects, by its own decoder. -/
theorem encodedOperationsDecodeBack : Obligations.EncodedOperationsDecodeBack := by
  intro c i r hwf henc
  cases i with
  | arrive e =>
    cases henc
    exact Arrival.decodeFrame_encodeEntry (beq_iff_eq.1 hwf)
  | segWriteMod n src =>
    cases henc
    exact decodeWcmd_write_mod n (.words src)
  | segWritePstm n src =>
    cases henc
    exact decodeWcmd_write_pstm n (.words src)
  | segWriteGstm m passes =>
    cases henc
    exact decodeWcmd_write_gstm m (.passes passes)
  | pNop | mbxPush | mbxClr | cNop | mbxPop | wNop | segBeginMod | segEndMod | segBeginPstm | segEndPstm | segBeginGstm
  | segEndGstm | segReset | tick =>
    cases henc
    rfl
  | _ => cases henc

/-- Settles O2: decoder by decoder, what it accepts is what the encoder writes. -/
theorem acceptedWordsAreTheEncodings : Obligations.AcceptedWordsAreTheEncodings :=
  ⟨fun _ _ _ => encode_of_decodePcmd, fun _ _ => encode_of_decodeCcmd, fun _ _ _ => encode_of_decodeWcmd,
    fun _ _ _ => encode_of_decodeFrame⟩

/-- Settles O3: seven words, evaluated. -/
theorem writtenWordsDecode : Obligations.WrittenWordsDecode :=
  ⟨rfl, rfl, rfl, rfl, rfl, rfl, rfl⟩

end Sys2Proof.Encoding
end

section
/-! What each operation leaves of the whole state (10_state.md rules R20 and R21): the operations of the ring writer and of
the apply engine change one set of registers, those of the arrival path another; those of the mailbox are taken one by
one. -/

namespace Sys2Proof.Frames

open Sys2Proof Sys2Proof.Machine

/-! ## The ring writer and the apply engine -/

/-- The operations of domain Q that touch neither the mailbox nor the TICK in progress. -/
def writes : Instr → Bool
  | .cNop | .wNop | .segBeginMod | .segWriteMod _ _ | .segEndMod | .segBeginPstm | .segWritePstm _ _ | .segEndPstm
  | .segBeginGstm | .segWriteGstm _ _ | .segEndGstm | .segReset | .aWriteMod | .aConfigSilencer | .aHeaderOnly
  | .aModDelay | .aDrive | .aPointStm | .aGainStm | .gPhaseDutyFull | .gPhaseFull | .gPhaseHalf => true
  | _ => false

/-- The operations after which `mod_cycle` may be another (41_ring_writer.md rule R154). -/
def setsModCycle (i : Instr) : Prop :=
  i = .segBeginMod ∨ (∃ n src, i = .segWriteMod n src) ∨ i = .segReset ∨ i = .fClear ∨ i = .aWriteMod

/-- The operations after which `stm_cycle` may be another. -/
def setsStmCycle (i : Instr) : Prop :=
  i = .segBeginPstm ∨ i = .segBeginGstm ∨ (∃ n src, i = .segWritePstm n src) ∨ (∃ m ps, i = .segWriteGstm m ps) ∨
    i = .segReset ∨ i = .fClear ∨ i = .aPointStm ∨ i = .aGainStm

/-- What an operation of the ring writer or of the apply engine may change. -/
structure WriterFrame (i : Instr) (s t : State) : Prop where
  frame : t =
    { s with
      modCycle := t.modCycle, stmCycle := t.stmCycle, gainMode := t.gainMode, wDone := t.wDone
      gainCount := t.gainCount, gainPasses := t.gainPasses, draws := t.draws, mem := t.mem, bus := t.bus }
  mem_wf : s.mem.wf = true → t.mem.wf = true
  gainMode : i ≠ .aGainStm → t.gainMode = s.gainMode
  modCycle : t.modCycle = s.modCycle ∨ setsModCycle i
  stmCycle : t.stmCycle = s.stmCycle ∨ setsStmCycle i

/-- A state with another device memory and record of requests, and perhaps other draws. -/
theorem WriterFrame.of_device {i : Instr} {s : State} {d : Nat} {w : Bool} {m : Memory} {b : List BusReq}
    (hm : s.mem.wf = true → m.wf = true) : WriterFrame i s { s with draws := d, wDone := w, mem := m, bus := b } :=
  ⟨rfl, hm, fun _ => rfl, .inl rfl, .inl rfl⟩

theorem WriterFrame.refl (i : Instr) (s : State) : WriterFrame i s s := .of_device (d := s.draws) (w := s.wDone) id

theorem segBegin_frame {i : Instr} (ch : Channel) (s : State) (hmod : ch = .mod → setsModCycle i)
    (hstm : ch ≠ .mod → setsStmCycle i) : WriterFrame i s (segBegin ch s) := by
  obtain ⟨m, h, hm⟩ := segBegin_shape ch s
  rw [h]
  cases ch with
  | mod => exact ⟨rfl, hm, fun _ => rfl, .inr (hmod rfl), .inl rfl⟩
  | pstm | gstm => exact ⟨rfl, hm, fun _ => rfl, .inl rfl, .inr (hstm nofun)⟩

theorem segEnd_frame (i : Instr) (ch : Channel) (s : State) : WriterFrame i s (segEnd ch s) := by
  obtain ⟨m, h, hm⟩ := segEnd_shape ch s
  rw [h]
  exact .of_device (d := s.draws) hm

theorem bramWrites_frame (i : Instr) (ws : List (Loc × Word)) (s : State) : WriterFrame i s (bramWrites .q ws s) := by
  obtain ⟨m, b, h, hm⟩ := bramWrites_shape .q ws s
  rw [h]
  exact .of_device (d := s.draws) (w := s.wDone) hm

theorem WriterFrame.withDraws {i : Instr} {s t : State} (h : WriterFrame i s t) (d : Nat) :
    WriterFrame i s { t with draws := d } :=
  ⟨congrArg (fun u : State => { u with draws := d }) h.frame, h.mem_wf, h.gainMode, h.modCycle, h.stmCycle⟩

/-- Every operation of the ring writer and of the apply engine keeps to its registers. -/
theorem exec_writerFrame {i : Instr} {s t : State} (hi : writes i = true) (h : exec i s = .next t) :
    WriterFrame i s t := by
  cases i with
  | segBeginMod =>
    cases h
    exact segBegin_frame .mod s (fun _ => .inl rfl) fun hne => absurd rfl hne
  | segBeginPstm =>
    cases h
    exact segBegin_frame .pstm s nofun fun _ => .inl rfl
  | segBeginGstm =>
    cases h
    exact segBegin_frame .gstm s nofun fun _ => .inr (.inl rfl)
  | segWriteMod n src =>
    obtain ⟨m, b, rfl, hm⟩ := segWrite_shape _ _ _ _ _ h
    exact ⟨rfl, hm, fun _ => rfl, .inr (.inr (.inl ⟨n, src, rfl⟩)), .inl rfl⟩
  | segWritePstm n src =>
    obtain ⟨m, b, rfl, hm⟩ := segWrite_shape _ _ _ _ _ h
    exact ⟨rfl, hm, fun _ => rfl, .inl rfl, .inr (.inr (.inr (.inl ⟨n, src, rfl⟩)))⟩
  | segWriteGstm m passes =>
    obtain ⟨mem, b, rfl, hm⟩ := segWriteGain_shape _ _ _ _ h
    exact ⟨rfl, hm, fun _ => rfl, .inl rfl, .inr (.inr (.inr (.inr (.inl ⟨m, passes, rfl⟩))))⟩
  | segReset =>
    cases h
    exact ⟨rfl, id, fun _ => rfl, .inr (by simp [setsModCycle]), .inr (by simp [setsStmCycle])⟩
  | segEndMod | segEndPstm | segEndGstm =>
    cases h
    exact segEnd_frame _ _ s
  | aWriteMod =>
    obtain ⟨m, b, rfl, hm⟩ := execAWriteMod_shape _ _ h
    exact ⟨rfl, hm, fun _ => rfl, .inr (by simp [setsModCycle]), .inl rfl⟩
  | aPointStm =>
    obtain ⟨m, b, rfl, hm⟩ := execAPointStm_shape _ _ h
    exact ⟨rfl, hm, fun _ => rfl, .inl rfl, .inr (by simp [setsStmCycle])⟩
  | aGainStm =>
    obtain ⟨c, g, k, ps, m, b, rfl, hm, -⟩ := execAGainStm_shape _ _ h
    exact ⟨rfl, hm, fun hne => absurd rfl hne, .inl rfl, .inr (by simp [setsStmCycle])⟩
  | aConfigSilencer | aDrive =>
    cases h
    exact bramWrites_frame _ _ s
  | aModDelay =>
    cases h
    exact (bramWrites_frame _ _ s).withDraws _
  | gPhaseDutyFull | gPhaseFull | gPhaseHalf =>
    cases h
    exact ⟨rfl, id, fun _ => rfl, .inl rfl, .inl rfl⟩
  | cNop | wNop | aHeaderOnly =>
    cases h
    exact .refl _ s
  | _ => cases hi

/-! ## The arrival path -/

/-- The operations of domain P that touch neither the mailbox nor the device memory of domain Q. -/
def arrives : Instr → Bool
  | .pNop | .arrive _ | .fDuplicate | .fRdCpuVersion | .fRdFpgaVersion | .fRdFpgaFunction | .fReserved _ | .fSynchronize
  | .ackUpdate | .ackEmit => true
  | _ => false

/-- What an operation of the arrival path may change. -/
structure ArrivalFrame (i : Instr) (s t : State) : Prop where
  frame : t =
    { s with
      pStage := t.pStage, prevId := t.prevId, readsInfo := t.readsInfo, ack := t.ack, ackOut := t.ackOut
      pReply := t.pReply, pTodo := t.pTodo, cycleTab := t.cycleTab, tabOld := t.tabOld, draws := t.draws, mem := t.mem
      bus := t.bus, answers := t.answers }
  mem_wf : s.mem.wf = true → t.mem.wf = true
  ofArrive : (∀ e, i ≠ .arrive e) → t.prevId = s.prevId ∧ t.readsInfo = s.readsInfo
  cycleTab : i ≠ .fSynchronize → t.cycleTab = s.cycleTab
  ack : i ≠ .ackUpdate → t.ack = s.ack
  ackOut : i ≠ .ackUpdate → i ≠ .ackEmit → t.ackOut = s.ackOut

/-- Every operation of the arrival path keeps to its registers. -/
theorem exec_arrivalFrame {i : Instr} {s t : State} (hi : arrives i = true) (h : exec i s = .next t) :
    ArrivalFrame i s t := by
  cases i with
  | arrive e =>
    cases h
    obtain ⟨-, h⟩ | ⟨-, h⟩ := arriveFrame_cases e s
    all_goals
      rw [h]
      exact ⟨rfl, id, fun hne => absurd rfl (hne e), fun _ => rfl, fun _ => rfl, fun _ _ => rfl⟩
  | fSynchronize =>
    cases h
    obtain ⟨m, b, h, hm⟩ := synchronize_shape s
    rw [h]
    exact ⟨rfl, hm, fun _ => ⟨rfl, rfl⟩, fun hne => absurd rfl hne, fun _ => rfl, fun _ _ => rfl⟩
  | ackUpdate =>
    cases h
    obtain ⟨_, _, _, _, h⟩ := updateAck_shape s
    rw [h]
    exact ⟨rfl, id, fun _ => ⟨rfl, rfl⟩, fun _ => rfl, fun hne => absurd rfl hne, fun hne => absurd rfl hne⟩
  | ackEmit =>
    cases h
    exact ⟨rfl, id, fun _ => ⟨rfl, rfl⟩, fun _ => rfl, fun _ => rfl, fun _ hne => absurd rfl hne⟩
  | pNop | fDuplicate | fRdCpuVersion | fRdFpgaVersion | fRdFpgaFunction | fReserved k =>
    cases h
    exact ⟨rfl, id, fun _ => ⟨rfl, rfl⟩, fun _ => rfl, fun _ => rfl, fun _ _ => rfl⟩
  | _ => cases hi

/-! ## The mailbox -/

/-- What an attempt of the retry loop leaves (40_mailbox.md rule R134). -/
theorem enqAttempt_next {s t : State} (h : enqAttempt s = .next t) :
    (fullP s = false ∧ t =
        { s with
          slots := s.slots.set s.wrBin.toNat s.pStage s.wrBin.isLt
          wrBin := inc5 s.wrBin, wrGray := gray5 (inc5 s.wrBin), pOk := true, pTries := 0 }) ∨
      (fullP s = true ∧ t = { s with pOk := false, pTries := s.pTries + 1, pTodo := .enq :: s.pTodo }) := by
  obtain ⟨hroom, h'⟩ | ⟨hfull, -, h'⟩ | ⟨-, -, h'⟩ := enqAttempt_cases s
  · rw [h'] at h
    cases h
    obtain ⟨hfull, -⟩ | ⟨-, hpush⟩ := pushEntry_cases s.pStage s
    · rw [hroom] at hfull
      cases hfull
    · exact .inl ⟨hroom, by rw [hpush]⟩
  · rw [h'] at h
    cases h
    exact .inr ⟨hfull, rfl⟩
  · rw [h'] at h
    cases h

/-- What a push, a pop, a synchroniser's step, an attempt of the retry loop or a clear that waits may change. -/
structure MailboxFrame (i : Instr) (s t : State) : Prop where
  frame : t =
    { s with
      wrBin := t.wrBin, wrGray := t.wrGray, rdGrayP := t.rdGrayP, pOk := t.pOk, slots := t.slots, rdBin := t.rdBin
      rdGray := t.rdGray, wrGrayQ := t.wrGrayQ, qEntry := t.qEntry, pTodo := t.pTodo, pTries := t.pTries
      draws := t.draws }
  pTodo : t.pTodo = s.pTodo ∨ (i.agent = .p ∧ ∃ j, (j = .enq ∨ j = .mbxClr ∨ j = .fClear) ∧ t.pTodo = j :: s.pTodo)
  slots : i.agent ≠ .p → t.slots = s.slots ∧ t.wrBin = s.wrBin ∧ t.wrGray = s.wrGray ∧ t.pOk = s.pOk
  pops : i.agent ≠ .q → t.rdBin = s.rdBin ∧ t.rdGray = s.rdGray ∧ t.qEntry = s.qEntry
  rdGrayP : (∀ k, i ≠ .sr k) → t.rdGrayP = s.rdGrayP
  wrGrayQ : (∀ k, i ≠ .sw k) → t.wrGrayQ = s.wrGrayQ

theorem pushEntry_frame {i : Instr} (hi : i.agent = .p) (e : Entry) (s : State) : MailboxFrame i s (pushEntry e s) := by
  obtain ⟨-, h⟩ | ⟨-, h⟩ := pushEntry_cases e s
  all_goals
    rw [h]
    exact ⟨rfl, .inl rfl, fun hp => absurd hi hp, fun _ => ⟨rfl, rfl, rfl⟩, fun _ => rfl, fun _ => rfl⟩

theorem popEntry_frame {i : Instr} (hi : i.agent = .q) (s : State) : MailboxFrame i s (popEntry s) := by
  obtain ⟨-, h⟩ | ⟨-, h⟩ := popEntry_cases s
  all_goals
    rw [h]
    exact ⟨rfl, .inl rfl, fun _ => ⟨rfl, rfl, rfl, rfl⟩, fun hq => absurd hi hq, fun _ => rfl, fun _ => rfl⟩

theorem holdP_frame {i : Instr} (hi : i.agent = .p) {j : Instr} (hj : j = .enq ∨ j = .mbxClr ∨ j = .fClear) (s : State) :
    MailboxFrame i s (holdP j s) :=
  ⟨rfl, .inr ⟨hi, j, hj, rfl⟩, fun hp => absurd hi hp, fun _ => ⟨rfl, rfl, rfl⟩, fun _ => rfl, fun _ => rfl⟩

theorem enq_frame {s t : State} (h : exec .enq s = .next t) : MailboxFrame .enq s t := by
  obtain ⟨-, rfl⟩ | ⟨-, rfl⟩ := enqAttempt_next h
  · exact ⟨rfl, .inl rfl, fun hp => absurd rfl hp, fun _ => ⟨rfl, rfl, rfl⟩, fun _ => rfl, fun _ => rfl⟩
  · exact ⟨rfl, .inr ⟨rfl, .enq, .inl rfl, rfl⟩, fun hp => absurd rfl hp, fun _ => ⟨rfl, rfl, rfl⟩, fun _ => rfl,
      fun _ => rfl⟩

/-- F.ENQUEUE is the retry loop from its first attempt (45_dispatch_apply.md rule R246). -/
theorem fEnqueue_frame {s t : State} (h : exec .fEnqueue s = .next t) : MailboxFrame .fEnqueue s t := by
  obtain ⟨-, rfl⟩ | ⟨-, rfl⟩ := enqAttempt_next (s := { s with pTries := 0 }) h
  · exact ⟨rfl, .inl rfl, fun hp => absurd rfl hp, fun _ => ⟨rfl, rfl, rfl⟩, fun _ => rfl, fun _ => rfl⟩
  · exact ⟨rfl, .inr ⟨rfl, .enq, .inl rfl, rfl⟩, fun hp => absurd rfl hp, fun _ => ⟨rfl, rfl, rfl⟩, fun _ => rfl,
      fun _ => rfl⟩

/-! ## Every operation -/

/-- What an operation that answers a next state does. -/
inductive Effect (i : Instr) (s t : State) : Prop
  | writer (hi : writes i = true) (hf : WriterFrame i s t)
  | arrival (hi : arrives i = true) (hf : ArrivalFrame i s t)
  | mailbox (hf : MailboxFrame i s t)
  | tick (hi : i = .tick) (ht : t = startTick s)
  | mbxClr (hi : i = .mbxClr) (hidle : s.qBusy = false) (ht : t = clearMailbox s)
  | fClear (hi : i = .fClear) (hidle : s.qBusy = false) (ht : t = globalClear s)

theorem exec_effect {i : Instr} {s t : State} (h : exec i s = .next t) : Effect i s t := by
  cases i with
  | mbxPush e =>
    cases h
    exact .mailbox (pushEntry_frame rfl e s)
  | mbxPop =>
    cases h
    exact .mailbox (popEntry_frame rfl s)
  | enq => exact .mailbox (enq_frame h)
  | fEnqueue => exact .mailbox (fEnqueue_frame h)
  | sw k =>
    cases h
    exact .mailbox ⟨rfl, .inl rfl, fun _ => ⟨rfl, rfl, rfl, rfl⟩, fun _ => ⟨rfl, rfl, rfl⟩, fun _ => rfl,
      fun hne => absurd rfl (hne k)⟩
  | sr k =>
    cases h
    exact .mailbox ⟨rfl, .inl rfl, fun _ => ⟨rfl, rfl, rfl, rfl⟩, fun _ => ⟨rfl, rfl, rfl⟩, fun hne => absurd rfl (hne k),
      fun _ => rfl⟩
  | mbxClr =>
    rw [Mailbox.exec_mbxClr] at h
    cases h
    split
    next => exact .mailbox (holdP_frame rfl (.inr (.inl rfl)) s)
    next hidle => exact .mbxClr rfl (Bool.eq_false_iff.2 hidle) rfl
  | fClear =>
    rw [Mailbox.exec_fClear] at h
    cases h
    split
    next => exact .mailbox (holdP_frame rfl (.inr (.inr rfl)) s)
    next hidle => exact .fClear rfl (Bool.eq_false_iff.2 hidle) rfl
  | tick =>
    cases h
    exact .tick rfl rfl
  | pNop | arrive | fDuplicate | fRdCpuVersion | fRdFpgaVersion | fRdFpgaFunction | fReserved | fSynchronize | ackUpdate
  | ackEmit => exact .arrival rfl (exec_arrivalFrame rfl h)
  | _ => exact .writer rfl (exec_writerFrame rfl h)

theorem agent_of_writes {i : Instr} (h : writes i = true) : i.agent = .q := by
  cases i with
  | cNop | wNop | segBeginMod | segWriteMod | segEndMod | segBeginPstm | segWritePstm | segEndPstm | segBeginGstm
  | segWriteGstm | segEndGstm | segReset | aWriteMod | aConfigSilencer | aHeaderOnly | aModDelay | aDrive | aPointStm
  | aGainStm | gPhaseDutyFull | gPhaseFull | gPhaseHalf => rfl
  | _ => cases h

theorem agent_of_arrives {i : Instr} (h : arrives i = true) : i.agent = .p := by
  cases i with
  | pNop | arrive | fDuplicate | fRdCpuVersion | fRdFpgaVersion | fRdFpgaFunction | fReserved | fSynchronize | ackUpdate
  | ackEmit => rfl
  | _ => cases h

/-! ## The parameters and the memory's form -/

/-- Every operation leaves the parameters, and keeps the memory in its canonical form (00_scope.md rule R5). -/
theorem exec_keeps_form {i : Instr} {s t : State} (h : exec i s = .next t) :
    t.cfg = s.cfg ∧ (s.mem.wf = true → t.mem.wf = true) := by
  cases exec_effect h with
  | writer _ hf => exact ⟨(congrArg State.cfg hf.frame :), hf.mem_wf⟩
  | arrival _ hf => exact ⟨(congrArg State.cfg hf.frame :), hf.mem_wf⟩
  | mailbox hf =>
    rw [hf.frame]
    exact ⟨rfl, id⟩
  | tick _ ht =>
    obtain ⟨-, h⟩ | ⟨-, _, _, -, h, hm⟩ := startTick_cases s
    · rw [ht, h]
      exact ⟨rfl, id⟩
    · rw [ht, h]
      exact ⟨rfl, hm⟩
  | mbxClr _ _ ht =>
    rw [ht]
    exact ⟨rfl, id⟩
  | fClear _ _ ht =>
    obtain ⟨_, _, h, hm⟩ := globalClear_shape s
    rw [ht, h]
    exact ⟨rfl, hm⟩

/-- Taking the turn and the operation changes neither. -/
theorem fetch_run_form {s u : State} {who : Agent} {i : Instr} (h : fetch s = .run who i u) :
    u.cfg = s.cfg ∧ u.mem = s.mem := by
  obtain ⟨-, -, _, _, -, rfl⟩ | ⟨-, -, _, _, -, rfl⟩ | ⟨-, -, -, _, _, _, -, -, rfl⟩ |
    ⟨-, -, -, -, _, _, _, -, -, rfl⟩ | ⟨-, _, _, -, rfl⟩ | ⟨-, _, _, -, rfl⟩ | ⟨-, -, _, _, rfl⟩ := fetch_run s u who i h
  all_goals exact ⟨rfl, rfl⟩

theorem fetch_rendezvous_form {s u : State} {c : Instr} (h : fetch s = .rendezvous c u) :
    u.cfg = s.cfg ∧ u.mem = s.mem := by
  obtain ⟨-, -, -, -, -, _, _, _, -, -, -, ⟨_, -, rfl⟩ | ⟨-, _, _, -, -, rfl⟩⟩ := fetch_rendezvous s u c h
  all_goals exact ⟨rfl, rfl⟩

/-- Settles O56: a quiet turn makes at most one device write or is the reset; any other runs operations. -/
theorem memoryFormAndParametersAreKept : Obligations.MemoryFormAndParametersAreKept := by
  intro s t h
  obtain hquiet | ⟨who, i, u, v, hrun, hexec, rfl⟩ | ⟨c, u, hrdv, hexec⟩ := (step_next s t).1 h
  · obtain ⟨_, rfl⟩ | ⟨_, rfl⟩ | ⟨_, _, _, _, -, rfl⟩ | ⟨_, _, _, _, -, rfl⟩ := fetch_quiet s t hquiet
    · exact ⟨rfl, id⟩
    · exact ⟨rfl, id⟩
    · exact ⟨rfl, writeWord_wf _ _ _⟩
    · rw [endOfTick_cfg, endOfTick_mem]
      exact ⟨rfl, writeWord_wf _ _ _⟩
  · have hu : u.cfg = s.cfg ∧ u.mem = s.mem := fetch_run_form hrun
    obtain ⟨hcfg, hwf⟩ := exec_keeps_form hexec
    obtain ⟨m, b, ps, qs, y, hend, hm⟩ := endTurn_shape who i u v
    rw [hend, ← hu.1, ← hu.2]
    exact ⟨hcfg, fun hs => hm hs (hwf hs)⟩
  · have hu : u.cfg = s.cfg ∧ u.mem = s.mem := fetch_rendezvous_form hrdv
    rw [← hu.1, ← hu.2]
    exact exec_keeps_form (s := segResetCounters u) hexec

/-! ## The counters -/

/-- Settles O32: outside the ring writer only a clear that fires writes a counter. -/
theorem countersChangeOnlyByTheWriter : Obligations.CountersChangeOnlyByTheWriter := by
  intro i s t h
  have kept (hm : t.modCycle = s.modCycle) (hs : t.stmCycle = s.stmCycle) :
      (t.modCycle ≠ s.modCycle → setsModCycle i) ∧ (t.stmCycle ≠ s.stmCycle → setsStmCycle i) :=
    ⟨fun hne => absurd hm hne, fun hne => absurd hs hne⟩
  cases exec_effect h with
  | writer _ hf => exact ⟨hf.modCycle.resolve_left, hf.stmCycle.resolve_left⟩
  | arrival _ hf => exact kept (congrArg State.modCycle hf.frame :) (congrArg State.stmCycle hf.frame :)
  | mailbox hf => exact kept (congrArg State.modCycle hf.frame :) (congrArg State.stmCycle hf.frame :)
  | tick _ ht =>
    obtain ⟨-, h⟩ | ⟨-, _, _, -, h, -⟩ := startTick_cases s
    all_goals
      rw [h] at ht
      exact kept (congrArg State.modCycle ht :) (congrArg State.stmCycle ht :)
  | mbxClr _ _ ht => exact kept (congrArg State.modCycle ht :) (congrArg State.stmCycle ht :)
  | fClear hi => exact ⟨fun _ => by simp [hi], fun _ => by simp [hi]⟩

/-! ## The domains -/

/-- The registers of domain P, the slots and the cycle table stand (10_state.md rule R20). -/
def KeepsP (s t : State) : Prop :=
  t.wrBin = s.wrBin ∧ t.wrGray = s.wrGray ∧ t.pStage = s.pStage ∧ t.prevId = s.prevId ∧
    t.readsInfo = s.readsInfo ∧ t.ack = s.ack ∧ t.ackOut = s.ackOut ∧ t.pOk = s.pOk ∧ t.slots = s.slots ∧
    t.cycleTab = s.cycleTab ∧ t.tabOld = s.tabOld ∧ t.pReply = s.pReply ∧ t.pTodo = s.pTodo

/-- The registers of domain Q stand. -/
def KeepsQ (s t : State) : Prop :=
  t.rdBin = s.rdBin ∧ t.rdGray = s.rdGray ∧ t.qStage = s.qStage ∧ t.qBusy = s.qBusy ∧ t.qEntry = s.qEntry ∧
    t.modCycle = s.modCycle ∧ t.stmCycle = s.stmCycle ∧ t.gainMode = s.gainMode ∧ t.wDone = s.wDone ∧
    t.qTodo = s.qTodo

/-- The device writes that are due, the parameters, the schedule and the requests that wait stand. -/
def KeepsInputs (s t : State) : Prop :=
  t.pPending = s.pPending ∧ t.qPending = s.qPending ∧ t.cfg = s.cfg ∧ t.sched = s.sched ∧ t.pIn = s.pIn ∧ t.qIn = s.qIn

theorem WriterFrame.keepsP {i : Instr} {s t : State} (h : WriterFrame i s t) : KeepsP s t := by
  rw [h.frame]
  exact ⟨rfl, rfl, rfl, rfl, rfl, rfl, rfl, rfl, rfl, rfl, rfl, rfl, rfl⟩

theorem WriterFrame.keepsInputs {i : Instr} {s t : State} (h : WriterFrame i s t) : KeepsInputs s t := by
  rw [h.frame]
  exact ⟨rfl, rfl, rfl, rfl, rfl, rfl⟩

theorem ArrivalFrame.keepsQ {i : Instr} {s t : State} (h : ArrivalFrame i s t) : KeepsQ s t := by
  rw [h.frame]
  exact ⟨rfl, rfl, rfl, rfl, rfl, rfl, rfl, rfl, rfl, rfl⟩

theorem ArrivalFrame.keepsInputs {i : Instr} {s t : State} (h : ArrivalFrame i s t) : KeepsInputs s t := by
  rw [h.frame]
  exact ⟨rfl, rfl, rfl, rfl, rfl, rfl⟩

theorem MailboxFrame.keepsP {i : Instr} {s t : State} (h : MailboxFrame i s t) (hi : i.agent ≠ .p) : KeepsP s t := by
  obtain ⟨hslots, hwr, hgray, hok⟩ := h.slots hi
  have htodo : t.pTodo = s.pTodo := h.pTodo.resolve_right fun hp => hi hp.1
  rw [h.frame]
  exact ⟨hwr, hgray, rfl, rfl, rfl, rfl, rfl, hok, hslots, rfl, rfl, rfl, htodo⟩

theorem MailboxFrame.keepsQ {i : Instr} {s t : State} (h : MailboxFrame i s t) (hi : i.agent ≠ .q) : KeepsQ s t := by
  obtain ⟨hrd, hgray, hentry⟩ := h.pops hi
  rw [h.frame]
  exact ⟨hrd, hgray, rfl, rfl, hentry, rfl, rfl, rfl, rfl, rfl⟩

theorem MailboxFrame.keepsInputs {i : Instr} {s t : State} (h : MailboxFrame i s t) : KeepsInputs s t := by
  rw [h.frame]
  exact ⟨rfl, rfl, rfl, rfl, rfl, rfl⟩

/-- The registers that a TICK leaves: all but those of the pop, of the frame staged and of domain Q's activity. -/
theorem startTick_frame (s : State) :
    startTick s =
      { s with
        emitDue := s.emitDue + 1, qEntry := (startTick s).qEntry, rdBin := (startTick s).rdBin
        rdGray := (startTick s).rdGray, qStage := (startTick s).qStage, qBusy := (startTick s).qBusy
        qTodo := (startTick s).qTodo, mem := (startTick s).mem, bus := (startTick s).bus } := by
  obtain ⟨-, h⟩ | ⟨-, _, _, -, h, -⟩ := startTick_cases s <;> rw [h]

/-- Settles O60: the frames of `Effect`; what a clear changes beyond them it changes with `q_busy` = 0. -/
theorem domainsKeepToTheirState : Obligations.DomainsKeepToTheirState := by
  intro i s t h
  cases exec_effect h with
  | writer hi hf =>
    have same {α : Type} (f : State → α) : f t = f _ := congrArg f hf.frame
    exact ⟨fun _ => hf.keepsP, fun hq => absurd (agent_of_writes hi) hq, fun _ _ _ => same State.rdGrayP,
      fun _ _ _ => same State.wrGrayQ, fun _ => same State.cycleTab, hf.gainMode, fun _ => same State.prevId,
      fun _ _ => same State.readsInfo, fun _ _ => same State.ack, fun _ _ => same State.ackOut, hf.keepsInputs⟩
  | arrival hi hf =>
    have same {α : Type} (f : State → α) : f t = f _ := congrArg f hf.frame
    exact ⟨fun hp => absurd (agent_of_arrives hi) hp, fun _ _ => hf.keepsQ, fun _ _ _ => same State.rdGrayP,
      fun _ _ _ => same State.wrGrayQ, hf.cycleTab, fun _ => same State.gainMode, fun hne => (hf.ofArrive hne).1,
      fun hne _ => (hf.ofArrive hne).2, fun hne _ => hf.ack hne, hf.ackOut, hf.keepsInputs⟩
  | mailbox hf =>
    have same {α : Type} (f : State → α) : f t = f _ := congrArg f hf.frame
    exact ⟨hf.keepsP, fun hq _ => hf.keepsQ hq, fun hne _ _ => hf.rdGrayP hne, fun hne _ _ => hf.wrGrayQ hne,
      fun _ => same State.cycleTab, fun _ => same State.gainMode, fun _ => same State.prevId,
      fun _ _ => same State.readsInfo, fun _ _ => same State.ack, fun _ _ => same State.ackOut, hf.keepsInputs⟩
  | tick hi ht =>
    rw [startTick_frame] at ht
    subst hi ht
    exact ⟨fun _ => ⟨rfl, rfl, rfl, rfl, rfl, rfl, rfl, rfl, rfl, rfl, rfl, rfl, rfl⟩, fun hq => absurd rfl hq,
      fun _ _ _ => rfl, fun _ _ _ => rfl, fun _ => rfl, fun _ => rfl, fun _ => rfl, fun _ _ => rfl, fun _ _ => rfl,
      fun _ _ => rfl, ⟨rfl, rfl, rfl, rfl, rfl, rfl⟩⟩
  | mbxClr hi hidle ht =>
    subst hi ht
    exact ⟨fun hp => absurd rfl hp, fun _ hc => absurd hc (by simp [hidle]), fun _ hne => absurd rfl hne,
      fun _ hne => absurd rfl hne, fun _ => rfl, fun _ => rfl, fun _ => rfl, fun _ _ => rfl, fun _ _ => rfl,
      fun _ _ => rfl, ⟨rfl, rfl, rfl, rfl, rfl, rfl⟩⟩
  | fClear hi hidle ht =>
    obtain ⟨_, _, hshape, -⟩ := globalClear_shape s
    rw [hshape] at ht
    subst hi ht
    exact ⟨fun hp => absurd rfl hp, fun _ hc => absurd hc (by simp [hidle]), fun _ _ hne => absurd rfl hne,
      fun _ _ hne => absurd rfl hne, fun _ => rfl, fun _ => rfl, fun _ => rfl, fun _ hne => absurd rfl hne,
      fun _ hne => absurd rfl hne, fun _ _ => rfl, ⟨rfl, rfl, rfl, rfl, rfl, rfl⟩⟩

end Sys2Proof.Frames
end

section
/-! When an operation stops (60_exceptions.md rules R270 and R272): nothing is turned away, and the three fault marks are
those of SEG.WRITE and of the retry loop, met by the operations that contain them. -/

namespace Sys2Proof.Stops

open Sys2Proof Sys2Proof.Machine

/-! ## Sequences that end with a register write -/

theorem onNext_next_ne_refused {o : Result} (g : State → State) {r : Refusal} (h : o ≠ .refused r) :
    (onNext o fun t => .next (g t)) ≠ .refused r := by
  cases o with
  | refused r' => exact fun heq => h heq
  | _ => nofun

theorem onNext_next_eq_fault {o : Result} {g : State → State} {r : Fault}
    (h : (onNext o fun t => .next (g t)) = .fault r) : o = .fault r := by
  cases o with
  | fault r' => exact h
  | _ => cases h

/-! ## Refusals -/

theorem enqAttempt_not_refused (s : State) (r : Refusal) : enqAttempt s ≠ .refused r := by
  obtain ⟨-, h⟩ | ⟨-, -, h⟩ | ⟨-, -, h⟩ := enqAttempt_cases s <;> rw [h] <;> nofun

theorem gainBody_not_refused (s : State) (r : Refusal) : gainBody s ≠ .refused r := segWriteGain_not_refused _ _ _ r

theorem exec_not_refused (i : Instr) (s : State) (r : Refusal) : exec i s ≠ .refused r := by
  cases i with
  | enq => exact enqAttempt_not_refused s r
  | fEnqueue => exact enqAttempt_not_refused _ r
  | segWriteMod | segWritePstm => exact segWrite_not_refused _ _ _ s r
  | segWriteGstm => exact segWriteGain_not_refused _ _ s r
  | aWriteMod | aPointStm => exact onNext_next_ne_refused _ (segWrite_not_refused _ _ _ _ r)
  | aGainStm =>
    refine onNext_next_ne_refused _ ?_
    split
    · nofun
    · exact gainBody_not_refused s r
  | _ => exact fun h => by cases h

/-! ## Fault marks -/

theorem enqAttempt_fault {s : State} {r : Fault} (h : enqAttempt s = .fault r) :
    s.cfg.retryLimit ≠ none ∧ r = .mailboxOverflow s.wrBin s.rdGrayP := by
  obtain ⟨-, h'⟩ | ⟨-, -, h'⟩ | ⟨-, hlimit, h'⟩ := enqAttempt_cases s
  all_goals
    rw [h'] at h
    cases h
  exact ⟨by simp [hlimit], rfl⟩

/-- A modulation frame has fewer samples than a segment, so it faults only at an odd counter, where it appends. -/
theorem execAWriteMod_fault {s : State} {r : Fault} (h : execAWriteMod s = .fault r) :
    qHas s s.cfg.cpuModBegin = false ∧ r = .modOddOffset s.modCycle (s.qStage.hdr.size.zeroExtend 16) := by
  have hfault := (segWrite_fault ..).1 (onNext_next_eq_fault h)
  have hsize : (s.qStage.hdr.size.zeroExtend 16).toNat < 256 := by
    have := s.qStage.hdr.size.isLt
    rw [BitVec.zeroExtend_eq_setWidth, BitVec.toNat_setWidth]
    omega
  obtain ⟨hover, -⟩ | ⟨-, -, ⟨-, hodd⟩, hr⟩ := hfault
  · rw [size_mod] at hover
    omega
  · cases hq : qHas s s.cfg.cpuModBegin with
    | true =>
      obtain ⟨_, _, hbegin, -⟩ := beginMod_shape s
      rw [hq, if_pos rfl, hbegin] at hodd
      exact absurd hodd (by simp)
    | false =>
      rw [hq] at hr
      exact ⟨rfl, hr⟩

theorem execAPointStm_fault {s : State} {r : Fault} (h : execAPointStm s = .fault r) :
    r = .segOverrun .pstm (if qHas s s.cfg.cpuStmBegin then 0#32 else s.stmCycle) (bodyWord s.qStage.body s.draws 0) := by
  have hfault := (segWrite_fault ..).1 (onNext_next_eq_fault h)
  obtain ⟨-, hr⟩ | ⟨-, -, ⟨hch, -⟩, -⟩ := hfault
  · rw [hr]
    split
    next =>
      obtain ⟨_, _, hbegin, -⟩ := beginPoint_shape s
      rw [hbegin]
      rfl
    next => rfl
  · cases hch

theorem gainBody_next (s : State) : ∃ t, gainBody s = .next t := by
  refine ⟨_, (segWriteGain_next _ _ _ _).2 ⟨?_, rfl⟩⟩
  have hlen := gainPassesOf_length (gainModeOf s.cfg s.gainMode) s
  simp only [latchPasses, BitVec.toNat_ofNat]
  omega

/-- Settles O8: the operations that contain a SEG.WRITE or an attempt of the retry loop, one by one. -/
theorem onlyTheThreeFaultMarksStop : Obligations.OnlyTheThreeFaultMarksStop := by
  refine ⟨exec_not_refused, fun i s r h => ?_⟩
  cases i with
  | segWriteMod n src =>
    refine .inl ⟨n, src, rfl, ?_⟩
    obtain ⟨-, hr⟩ | ⟨-, -, -, hr⟩ := (segWrite_fault ..).1 h
    · exact .inl hr
    · exact .inr hr
  | segWritePstm n src =>
    obtain ⟨-, hr⟩ | ⟨-, -, ⟨hch, -⟩, -⟩ := (segWrite_fault ..).1 h
    · exact .inr (.inl ⟨n, src, rfl, hr⟩)
    · cases hch
  | segWriteGstm m ps =>
    obtain ⟨-, hr⟩ := (segWriteGain_fault ..).1 h
    exact .inr (.inr (.inl ⟨m, ps, rfl, hr⟩))
  | aPointStm => exact .inr (.inr (.inr (.inl ⟨rfl, execAPointStm_fault h⟩)))
  | aWriteMod => exact .inr (.inr (.inr (.inr (.inl ⟨rfl, execAWriteMod_fault h⟩))))
  | enq => exact .inr (.inr (.inr (.inr (.inr ⟨.inl rfl, enqAttempt_fault h⟩))))
  | fEnqueue =>
    exact .inr (.inr (.inr (.inr (.inr ⟨.inr rfl, enqAttempt_fault (s := { s with pTries := 0 }) h⟩))))
  | aGainStm =>
    have hfault := onNext_next_eq_fault h
    split at hfault
    · cases hfault
    · obtain ⟨t, ht⟩ := gainBody_next s
      rw [ht] at hfault
      cases hfault
  | _ => cases h

end Sys2Proof.Stops
end

section
/-! What a step keeps of the activities in progress and of the lengths of the Bodies (10_state.md rules R30, R32 and R35,
45_dispatch_apply.md rules R236 and R240). -/

namespace Sys2Proof.Activities

open Sys2Proof Sys2Proof.Machine Sys2Proof.Frames

/-! ## What is left of an ARRIVE -/

theorem leftOfArrive_commandOf (c : Params) (h : Header) : (commandOf c h).leftOfArrive = true := by
  unfold commandOf
  split_ifs <;> rfl

/-- The three operations that P tries again are those that can be left of an ARRIVE. -/
theorem leftOfArrive_of_held {i : Instr} (h : i = .enq ∨ i = .mbxClr ∨ i = .fClear) : i.leftOfArrive = true := by
  obtain rfl | rfl | rfl := h <;> rfl

/-- Of the arrival path only ARRIVE sets what P has left. -/
theorem arrival_pTodo {i : Instr} {s t : State} (hi : arrives i = true) (h : exec i s = .next t)
    (hs : ∀ j ∈ s.pTodo, j.leftOfArrive = true) : ∀ j ∈ t.pTodo, j.leftOfArrive = true := by
  cases i with
  | arrive e =>
    cases h
    obtain ⟨-, h⟩ | ⟨-, h⟩ := arriveFrame_cases e s
    · rw [h]
      exact List.forall_mem_cons.2 ⟨rfl, List.forall_mem_singleton.2 rfl⟩
    · rw [h]
      exact List.forall_mem_cons.2 ⟨leftOfArrive_commandOf _ _, List.forall_mem_singleton.2 rfl⟩
  | fSynchronize =>
    cases h
    obtain ⟨_, _, h, -⟩ := synchronize_shape s
    rwa [h]
  | ackUpdate =>
    cases h
    obtain ⟨_, _, _, _, h⟩ := updateAck_shape s
    rwa [h]
  | pNop | fDuplicate | fRdCpuVersion | fRdFpgaVersion | fRdFpgaFunction | fReserved k | ackEmit =>
    cases h
    exact hs
  | _ => cases hi

/-- What P has left after an operation: as before, with the operation tried again in front, or an ARRIVE's selection. -/
theorem exec_pTodo {i : Instr} {s t : State} (h : exec i s = .next t) (hs : ∀ j ∈ s.pTodo, j.leftOfArrive = true) :
    ∀ j ∈ t.pTodo, j.leftOfArrive = true := by
  have same (heq : t.pTodo = s.pTodo) : ∀ j ∈ t.pTodo, j.leftOfArrive = true := heq ▸ hs
  cases exec_effect h with
  | writer _ hf => exact same (congrArg State.pTodo hf.frame :)
  | arrival hi hf => exact arrival_pTodo hi h hs
  | mailbox hf =>
    obtain heq | ⟨-, j, hj, heq⟩ := hf.pTodo
    · exact same heq
    · exact heq ▸ List.forall_mem_cons.2 ⟨leftOfArrive_of_held hj, hs⟩
  | tick _ ht =>
    rw [startTick_frame] at ht
    exact same (congrArg State.pTodo ht :)
  | mbxClr _ _ ht => exact same (congrArg State.pTodo ht :)
  | fClear _ _ ht =>
    obtain ⟨_, _, hshape, -⟩ := globalClear_shape s
    exact same (congrArg State.pTodo (ht.trans hshape) :)

/-! ## What is left of a TICK -/

/-- What is left of a TICK, and `q_busy`, are the same in both states. -/
def SameTick (s t : State) : Prop := t.qTodo = s.qTodo ∧ t.qBusy = s.qBusy ∧ t.qPending = s.qPending

theorem exec_sameTick {i : Instr} {s t : State} (hi : i ≠ .tick) (h : exec i s = .next t) : SameTick s t := by
  cases exec_effect h with
  | writer _ hf =>
    rw [hf.frame]
    exact ⟨rfl, rfl, rfl⟩
  | arrival _ hf =>
    rw [hf.frame]
    exact ⟨rfl, rfl, rfl⟩
  | mailbox hf =>
    rw [hf.frame]
    exact ⟨rfl, rfl, rfl⟩
  | tick htick => exact absurd htick hi
  | mbxClr _ _ ht =>
    rw [ht]
    exact ⟨rfl, rfl, rfl⟩
  | fClear _ _ ht =>
    obtain ⟨_, _, hshape, -⟩ := globalClear_shape s
    rw [ht, hshape]
    exact ⟨rfl, rfl, rfl⟩

/-- `q_busy` is 1 exactly while commands or device writes of a TICK are left (10_state.md rule R30). -/
def BusyMeansLeft (s : State) : Prop := s.qBusy = true ↔ s.qTodo ≠ [] ∨ s.qPending ≠ []

/-- What is left of a TICK is two commands of the apply engine at most. -/
def LeftOfOneTick (s : State) : Prop := (∀ i ∈ s.qTodo, leftOfTick i = true) ∧ s.qTodo.length ≤ 2

theorem activityInv_iff (s : State) :
    ActivityInv s ↔ (∀ i ∈ s.pTodo, i.leftOfArrive = true) ∧ LeftOfOneTick s ∧ BusyMeansLeft s := by
  simp only [ActivityInv, LeftOfOneTick, BusyMeansLeft, and_assoc]

theorem SameTick.leftOfOneTick {s t : State} (h : SameTick s t) (hs : LeftOfOneTick s) : LeftOfOneTick t := by
  obtain ⟨htodo, -, -⟩ := h
  rwa [LeftOfOneTick, htodo]

theorem SameTick.busyMeansLeft {s t : State} (h : SameTick s t) (hs : BusyMeansLeft s) : BusyMeansLeft t := by
  obtain ⟨htodo, hbusy, hpend⟩ := h
  rwa [BusyMeansLeft, htodo, hbusy, hpend]

/-- The end of a turn of Q makes `q_busy` fall when nothing is left. -/
theorem busyMeansLeft_endOfTick {s : State} (h : s.qTodo ≠ [] ∨ s.qPending ≠ [] → s.qBusy = true) :
    BusyMeansLeft (endOfTick s) := by
  rw [BusyMeansLeft, endOfTick_qTodo, endOfTick_qPending]
  unfold endOfTick
  split
  next hdone => simp [hdone]
  next hleft => exact ⟨fun _ => by tauto, h⟩

theorem leftOfTick_applyCommands (c : Params) (h : Header) :
    (∀ i ∈ applyCommands c h, leftOfTick i = true) ∧ (applyCommands c h).length ≤ 2 := by
  have hbody : leftOfTick (bodyCommand c h) = true := by
    unfold bodyCommand
    split_ifs <;> rfl
  have hhead : (∀ i ∈ headCommand c h, leftOfTick i = true) ∧ (headCommand c h).length ≤ 1 := by
    unfold headCommand
    split_ifs <;> simp [leftOfTick]
  obtain ⟨hkinds, hlen⟩ := hhead
  refine ⟨List.forall_mem_append.2 ⟨hkinds, List.forall_mem_singleton.2 hbody⟩, ?_⟩
  rw [applyCommands, List.length_append, List.length_singleton]
  omega

/-! ## Requests at the ports -/

theorem agent_of_encode {i : Instr} {r : Request} (h : encode i = some r) : r.agent = i.agent := by
  cases i <;> cases h <;> rfl

/-- Of the operations that a port selects, only TICK leaves its device writes to later turns. -/
theorem interleaves_of_encode {i : Instr} {r : Request} (h : encode i = some r) (hi : i ≠ .tick) :
    interleaves i = false := by
  cases i with
  | tick => exact absurd rfl hi
  | _ => cases h <;> rfl

/-- The operation of a request is one that a port of that agent selects. -/
theorem encode_of_decodeRequest {c : Params} {who : Agent} {r : Request} {i : Instr}
    (h : decodeRequest c who r = .ok i) : ∃ r', encode i = some r' ∧ r'.agent = who := by
  unfold decodeRequest at h
  split_ifs at h with hwho
  obtain rfl := not_not.1 hwho
  cases r with
  | frame image => exact ⟨_, Encoding.encode_of_decodeFrame h, rfl⟩
  | pcmd w e =>
    obtain ⟨e', he⟩ := Encoding.encode_of_decodePcmd h
    exact ⟨_, he, rfl⟩
  | tick =>
    cases h
    exact ⟨_, rfl, rfl⟩
  | ccmd w => exact ⟨_, Encoding.encode_of_decodeCcmd h, rfl⟩
  | wcmd w src =>
    obtain ⟨src', he⟩ := Encoding.encode_of_decodeWcmd h
    exact ⟨_, he, rfl⟩

theorem agent_of_decodeRequest {c : Params} {who : Agent} {r : Request} {i : Instr}
    (h : decodeRequest c who r = .ok i) : i.agent = who := by
  obtain ⟨r', henc, hwho⟩ := encode_of_decodeRequest h
  rw [← agent_of_encode henc, hwho]

/-! ## A step -/

/-- A turn that does not end a TICK leaves what `exec` left of the activities, but for P's device writes. -/
theorem endTurn_activities {who : Agent} (hwho : who ≠ .q) (i : Instr) (s t : State) :
    SameTick t (endTurn who i s t) ∧ (endTurn who i s t).pTodo = t.pTodo := by
  cases who with
  | q => exact absurd rfl hwho
  | p =>
    rw [endTurn]
    split <;> exact ⟨⟨rfl, rfl, rfl⟩, rfl⟩
  | sw | sr => exact ⟨⟨rfl, rfl, rfl⟩, rfl⟩

/-- The end of a turn of Q: `pend` are the device writes that its operation leaves to later turns. -/
theorem endTurn_q (i : Instr) (s t : State) :
    ∃ m b pend, endTurn .q i s t = endOfTick { t with mem := m, bus := b, qPending := pend } ∧
      (interleaves i = false → pend = t.qPending) ∧ (t.bus = s.bus → interleaves i = true → pend = []) := by
  rw [endTurn]
  split
  next hi => exact ⟨_, _, _, rfl, fun hn => absurd hi (by simp [hn]), fun hb _ => by simp [newWrites, newRequests, hb]⟩
  next hi => exact ⟨_, _, _, rfl, fun _ => rfl, fun _ hy => absurd hy hi⟩

/-- A turn of Q whose operation finds or leaves `q_busy` = 1. -/
theorem endTurn_q_of_busy {i : Instr} {s t : State} (hp : ∀ j ∈ t.pTodo, j.leftOfArrive = true)
    (hq : LeftOfOneTick t) (hbusy : t.qBusy = true) : ActivityInv (endTurn .q i s t) := by
  obtain ⟨m, b, pend, hend, -, -⟩ := endTurn_q i s t
  rw [hend, activityInv_iff, LeftOfOneTick, endOfTick_pTodo, endOfTick_qTodo]
  exact ⟨hp, hq, busyMeansLeft_endOfTick fun _ => hbusy⟩

/-- A turn of Q whose operation leaves nothing to do. -/
theorem endTurn_q_of_nothing {i : Instr} {s t : State} (hp : ∀ j ∈ t.pTodo, j.leftOfArrive = true)
    (htodo : t.qTodo = []) (hpend : t.qPending = []) (hi : interleaves i = false ∨ t.bus = s.bus) :
    ActivityInv (endTurn .q i s t) := by
  obtain ⟨m, b, pend, hend, hplain, hput⟩ := endTurn_q i s t
  have hnil : pend = [] := by
    cases hint : interleaves i with
    | false => rw [hplain hint, hpend]
    | true => exact hput (hi.resolve_left (by simp [hint])) hint
  rw [hend, activityInv_iff, LeftOfOneTick, endOfTick_pTodo, endOfTick_qTodo]
  exact ⟨hp, by simp [htodo], busyMeansLeft_endOfTick (by simp [htodo, hnil])⟩

/-- A request at the port of an idle agent Q. -/
theorem request_keeps_activity {s v : State} {r : Request} {i : Instr} (h : exec i s = .next v) (hs : ActivityInv s)
    (hpend : s.qPending = []) (htodo : s.qTodo = []) (hdec : decodeRequest s.cfg .q r = .ok i) :
    ActivityInv (endTurn .q i s v) := by
  obtain ⟨hp, -, -⟩ := (activityInv_iff s).1 hs
  have hpv := exec_pTodo h hp
  by_cases hi : i = .tick
  · subst hi
    cases h
    obtain ⟨-, ht⟩ | ⟨-, e, m, -, ht, -⟩ := startTick_cases s
    · exact endTurn_q_of_nothing hpv (by rw [ht]; exact htodo) (by rw [ht]; exact hpend) (.inr (by rw [ht]))
    · refine endTurn_q_of_busy hpv ?_ (by rw [ht])
      rw [ht]
      exact leftOfTick_applyCommands s.cfg e.hdr
  · obtain ⟨hst, -, hsp⟩ := exec_sameTick hi h
    obtain ⟨r', henc, -⟩ := encode_of_decodeRequest hdec
    exact endTurn_q_of_nothing hpv (hst.trans htodo) (hsp.trans hpend) (.inl (interleaves_of_encode henc hi))

theorem exec_keeps_activity {i : Instr} {u v : State} (h : exec i u = .next v) (hi : i ≠ .tick) (hu : ActivityInv u) :
    ActivityInv v := by
  obtain ⟨hp, hq, hb⟩ := (activityInv_iff u).1 hu
  have hv := exec_sameTick hi h
  exact (activityInv_iff v).2 ⟨exec_pTodo h hp, hv.leftOfOneTick hq, hv.busyMeansLeft hb⟩

/-- An operation, and the end of its turn, of an agent other than Q. -/
theorem run_keeps_activity {who : Agent} {i : Instr} {u v : State} (h : exec i u = .next v) (hwho : who ≠ .q)
    (hi : i ≠ .tick) (hu : ActivityInv u) : ActivityInv (endTurn who i u v) := by
  obtain ⟨hp, hq, hb⟩ := (activityInv_iff v).1 (exec_keeps_activity h hi hu)
  obtain ⟨hend, htodo⟩ := endTurn_activities hwho i u v
  exact (activityInv_iff _).2 ⟨htodo ▸ hp, hend.leftOfOneTick hq, hend.busyMeansLeft hb⟩

/-- A turn that runs no operation. -/
theorem quiet_keeps_activity {s t : State} (hs : ActivityInv s) (h : fetch s = .quiet t) : ActivityInv t := by
  obtain ⟨_, rfl⟩ | ⟨_, rfl⟩ | ⟨_, _, _, _, -, rfl⟩ | ⟨_, _, _, _, hpend, rfl⟩ := fetch_quiet s t h
  · exact hs
  · simp [ActivityInv, powerOnReset]
  · exact hs
  · obtain ⟨hp, hq, hb⟩ := (activityInv_iff s).1 hs
    have hbusy : s.qBusy = true := hb.2 (.inr (by simp [hpend]))
    rw [activityInv_iff, LeftOfOneTick, endOfTick_pTodo, endOfTick_qTodo]
    exact ⟨hp, hq, busyMeansLeft_endOfTick fun _ => hbusy⟩

theorem step_keeps_activity {s t : State} (hs : ActivityInv s) (h : step s = .next t) : ActivityInv t := by
  obtain ⟨hp, hq, hb⟩ := (activityInv_iff s).1 hs
  obtain hquiet | ⟨who, i, u, v, hrun, hexec, rfl⟩ | ⟨c, u, hrdv, hexec⟩ := (step_next s t).1 h
  · exact quiet_keeps_activity hs hquiet
  · have htick {who : Agent} (hq : i.agent = who) (hne : who ≠ .q) : i ≠ .tick := by
      rintro rfl
      exact hne hq.symm
    obtain ⟨rfl, -, is, _, htodo, rfl⟩ | ⟨rfl, -, is, ts, htodo, rfl⟩ | ⟨rfl, -, -, _, _, _, hdec, -, rfl⟩ |
      ⟨rfl, hpend, htodo, -, _, _, _, hdec, -, rfl⟩ | ⟨rfl, _, _, rfl, rfl⟩ | ⟨rfl, _, _, rfl, rfl⟩ |
      ⟨rfl, rfl, _, _, rfl⟩ := fetch_run s u who i hrun
    · rw [htodo] at hp
      obtain ⟨hi, his⟩ := List.forall_mem_cons.1 hp
      exact run_keeps_activity hexec nofun (by rintro rfl; cases hi) ((activityInv_iff _).2 ⟨his, hq, hb⟩)
    · rw [LeftOfOneTick, htodo] at hq
      obtain ⟨hkinds, hlen⟩ := hq
      obtain ⟨hi, his⟩ := List.forall_mem_cons.1 hkinds
      have hsame := exec_sameTick (by rintro rfl; cases hi) hexec
      have hrest : LeftOfOneTick { s with sched := ts, qTodo := is } := ⟨his, Nat.le_of_succ_le hlen⟩
      exact endTurn_q_of_busy (exec_pTodo hexec hp) (hsame.leftOfOneTick hrest)
        (hsame.2.1.trans (hb.2 (.inl (by simp [htodo]))))
    · exact run_keeps_activity hexec nofun (htick (agent_of_decodeRequest hdec) nofun) hs
    · exact request_keeps_activity hexec hs hpend htodo hdec
    · exact run_keeps_activity hexec nofun nofun hs
    · exact run_keeps_activity hexec nofun nofun hs
    · exact run_keeps_activity hexec nofun nofun hs
  · obtain ⟨hc, -, -, -, -, _, _, _, -, -, -, hu⟩ := fetch_rendezvous s u c hrdv
    have hclear : c ≠ .tick := by
      obtain rfl | rfl := hc <;> nofun
    refine exec_keeps_activity (u := segResetCounters u) hexec hclear ?_
    obtain ⟨is, htodo, rfl⟩ | ⟨-, _, _, -, -, rfl⟩ := hu
    · rw [htodo] at hp
      exact (activityInv_iff _).2 ⟨(List.forall_mem_cons.1 hp).2, hq, hb⟩
    · exact hs

/-! ## The lengths of the Bodies and of the cycle tables (rules R32 and R35) -/

/-- A Body that an operation brings from a port has `N` elements. -/
def BringsBodies (c : Params) (i : Instr) : Prop := ∀ e, i = .arrive e ∨ i = .mbxPush e → e.body.length = c.n

theorem bringsBodies_of_wellFormed {c : Params} {i : Instr} (h : i.wellFormed c = true) : BringsBodies c i := by
  rintro e (rfl | rfl)
  · exact beq_iff_eq.1 h
  · exact beq_iff_eq.1 h

theorem bringsBodies_of_leftOfArrive {c : Params} {i : Instr} (h : i.leftOfArrive = true) : BringsBodies c i := by
  rintro e (rfl | rfl) <;> cases h

theorem bringsBodies_of_leftOfTick {c : Params} {i : Instr} (h : leftOfTick i = true) : BringsBodies c i := by
  rintro e (rfl | rfl) <;> cases h

theorem length_bodyWords (c : Params) (b : List Word) (d : Nat) : (bodyWords c b d).length = c.n := by simp [bodyWords]

theorem length_zeroEntry (c : Params) : (zeroEntry c).body.length = c.n := List.length_replicate

/-- A slot of the storage, where every slot has the length. -/
theorem length_slot {n : Nat} {slots : Vector Entry 32} (h : ∀ e ∈ slots.toList, e.body.length = n) (j : Nat)
    (hj : j < 32) : (slots[j]).body.length = n := h _ (by simp)

theorem lengths_set {n : Nat} {slots : Vector Entry 32} (h : ∀ e ∈ slots.toList, e.body.length = n) {j : Nat}
    (hj : j < 32) {e : Entry} (he : e.body.length = n) : ∀ x ∈ (slots.set j e hj).toList, x.body.length = n := by
  intro x hx
  rw [Vector.toList_set] at hx
  obtain hx | rfl := List.mem_or_eq_of_mem_set hx
  · exact h x hx
  · exact he

/-- The lengths are those of six registers. -/
theorem lengthInv_of_eq {s t : State} (h : LengthInv s) (hcfg : t.cfg = s.cfg) (hslots : t.slots = s.slots)
    (hp : t.pStage = s.pStage) (hq : t.qStage = s.qStage) (hentry : t.qEntry = s.qEntry)
    (htab : t.cycleTab = s.cycleTab) (hold : t.tabOld = s.tabOld) : LengthInv t := by
  rwa [LengthInv, hcfg, hslots, hp, hq, hentry, htab, hold]

theorem pushEntry_keeps_lengths {e : Entry} {s : State} (hs : LengthInv s) (he : e.body.length = s.cfg.n) :
    LengthInv (pushEntry e s) := by
  obtain ⟨-, h⟩ | ⟨-, h⟩ := pushEntry_cases e s
  · rw [h]
    exact hs
  · obtain ⟨hslots, hrest⟩ := hs
    rw [h]
    exact ⟨lengths_set hslots s.wrBin.isLt he, hrest⟩

theorem popEntry_keeps_lengths {s : State} (hs : LengthInv s) : LengthInv (popEntry s) := by
  obtain ⟨hslots, hp, hq, -, htabs⟩ := hs
  obtain ⟨-, h⟩ | ⟨-, h⟩ := popEntry_cases s
  · rw [h]
    exact ⟨hslots, hp, hq, nofun, htabs⟩
  · rw [h]
    refine ⟨hslots, hp, hq, fun e he => ?_, htabs⟩
    cases he
    exact length_slot hslots _ _

theorem startTick_keeps_lengths {s : State} (hs : LengthInv s) : LengthInv (startTick s) := by
  obtain ⟨hslots, hp, hq, -, htabs⟩ := hs
  obtain ⟨-, h⟩ | ⟨-, e, m, he, h, -⟩ := startTick_cases s
  · rw [h]
    exact ⟨hslots, hp, hq, nofun, htabs⟩
  · have hlen : e.body.length = s.cfg.n := he ▸ length_slot hslots _ _
    rw [h]
    exact ⟨hslots, hp, hlen, fun x hx => by cases hx; exact hlen, htabs⟩

theorem enqAttempt_keeps_lengths {s t : State} (hs : LengthInv s) (h : enqAttempt s = .next t) : LengthInv t := by
  obtain ⟨-, rfl⟩ | ⟨-, rfl⟩ := enqAttempt_next h
  · obtain ⟨hslots, hp, hrest⟩ := hs
    exact ⟨lengths_set hslots s.wrBin.isLt hp, hp, hrest⟩
  · exact hs

/-- A clear leaves entries of zeros in the storage. -/
theorem cleared_lengths {s : State} (hs : LengthInv s) :
    LengthInv
      { s with
        slots := Vector.replicate 32 (zeroEntry s.cfg), pStage := zeroEntry s.cfg, qStage := zeroEntry s.cfg } := by
  obtain ⟨-, -, -, hentry, htabs⟩ := hs
  refine ⟨fun e he => ?_, length_zeroEntry _, length_zeroEntry _, hentry, htabs⟩
  rw [Vector.toList_replicate] at he
  rw [List.eq_of_mem_replicate he]
  exact length_zeroEntry _

/-- Every operation whose own Bodies have `N` elements keeps the lengths. -/
theorem exec_keeps_lengths {i : Instr} {s t : State} (h : exec i s = .next t) (hs : LengthInv s)
    (hi : BringsBodies s.cfg i) : LengthInv t := by
  cases i with
  | mbxPush e =>
    cases h
    exact pushEntry_keeps_lengths hs (hi e (.inr rfl))
  | mbxPop =>
    cases h
    exact popEntry_keeps_lengths hs
  | tick =>
    cases h
    exact startTick_keeps_lengths hs
  | enq => exact enqAttempt_keeps_lengths hs h
  | fEnqueue => exact enqAttempt_keeps_lengths (s := { s with pTries := 0 }) hs h
  | mbxClr =>
    cases h
    split
    · exact hs
    · exact cleared_lengths hs
  | fClear =>
    cases h
    split
    · exact hs
    · obtain ⟨_, _, h, -⟩ := globalClear_shape s
      rw [h]
      exact cleared_lengths hs
  | arrive e =>
    obtain ⟨hslots, -, hrest⟩ := hs
    cases h
    obtain ⟨-, h⟩ | ⟨-, h⟩ := arriveFrame_cases e s
    all_goals
      rw [h]
      exact ⟨hslots, hi e (.inl rfl), hrest⟩
  | fSynchronize =>
    obtain ⟨hslots, hp, hq, hentry, htab, -⟩ := hs
    cases h
    obtain ⟨_, _, h, -⟩ := synchronize_shape s
    rw [h]
    exact ⟨hslots, hp, hq, hentry, length_bodyWords _ _ _, fun old hold => by cases hold; exact htab⟩
  | ackUpdate =>
    obtain ⟨hslots, hp, hq, hentry, htab, -⟩ := hs
    cases h
    obtain ⟨_, _, _, _, h⟩ := updateAck_shape s
    rw [h]
    exact ⟨hslots, hp, hq, hentry, htab, nofun⟩
  | pNop | sw k | sr k | fDuplicate | fRdCpuVersion | fRdFpgaVersion | fRdFpgaFunction | fReserved k | ackEmit =>
    cases h
    exact hs
  | _ =>
    rw [(exec_writerFrame rfl h).frame]
    exact hs

/-- The end of a turn leaves the Bodies. -/
theorem endTurn_keeps_lengths {who : Agent} {i : Instr} {s t : State} (h : LengthInv t) :
    LengthInv (endTurn who i s t) := by
  obtain ⟨_, _, _, _, _, hend, -⟩ := endTurn_shape who i s t
  rw [hend]
  exact h

theorem powerOnReset_lengths (s : State) : LengthInv (powerOnReset s) := by
  have hplace (j : Nat) : (powerOnEntry s j).body.length = s.cfg.n := by simp [powerOnEntry]
  refine ⟨fun e he => ?_, hplace 32, hplace 33, nofun, by simp [powerOnReset], nofun⟩
  obtain ⟨j, hj, rfl⟩ := List.getElem_of_mem he
  simpa [powerOnReset] using hplace j

theorem step_keeps_lengths {s t : State} (ha : ActivityInv s) (hs : LengthInv s) (h : step s = .next t) :
    LengthInv t := by
  obtain ⟨hp, hq, -⟩ := ha
  obtain hquiet | ⟨who, i, u, v, hrun, hexec, rfl⟩ | ⟨c, u, hrdv, hexec⟩ := (step_next s t).1 h
  · obtain ⟨_, rfl⟩ | ⟨_, rfl⟩ | ⟨_, _, _, _, -, rfl⟩ | ⟨_, _, _, _, -, rfl⟩ := fetch_quiet s t hquiet
    · exact hs
    · exact powerOnReset_lengths _
    · exact hs
    · exact lengthInv_of_eq hs (by simp) (by simp) (by simp) (by simp) (by simp) (by simp) (by simp)
  · refine endTurn_keeps_lengths ?_
    obtain ⟨-, -, is, ts, htodo, rfl⟩ | ⟨-, -, is, ts, htodo, rfl⟩ | ⟨-, -, -, _, _, _, -, hw, rfl⟩ |
      ⟨-, -, -, -, _, _, _, -, hw, rfl⟩ | ⟨-, _, _, rfl, rfl⟩ | ⟨-, _, _, rfl, rfl⟩ | ⟨-, rfl, _, _, rfl⟩ :=
      fetch_run s u who i hrun
    · exact exec_keeps_lengths hexec hs (bringsBodies_of_leftOfArrive (hp i (by simp [htodo])))
    · exact exec_keeps_lengths hexec hs (bringsBodies_of_leftOfTick (hq i (by simp [htodo])))
    · exact exec_keeps_lengths hexec hs (bringsBodies_of_wellFormed hw)
    · exact exec_keeps_lengths hexec hs (bringsBodies_of_wellFormed hw)
    · exact exec_keeps_lengths hexec hs nofun
    · exact exec_keeps_lengths hexec hs nofun
    · exact exec_keeps_lengths hexec hs nofun
  · obtain ⟨hc, -, -, -, -, _, _, _, -, -, -, hu⟩ := fetch_rendezvous s u c hrdv
    have hclear : BringsBodies s.cfg c := bringsBodies_of_leftOfArrive (by obtain rfl | rfl := hc <;> rfl)
    obtain ⟨is, htodo, rfl⟩ | ⟨-, _, _, -, -, rfl⟩ := hu
    · exact exec_keeps_lengths (s := segResetCounters _) hexec hs hclear
    · exact exec_keeps_lengths (s := segResetCounters _) hexec hs hclear

/-- Settles O57: `step_keeps_activity` and `step_keeps_lengths`. -/
theorem activityAndLengthInvariantsAreKept : Obligations.ActivityAndLengthInvariantsAreKept :=
  fun _ _ ha hl h => ⟨step_keeps_activity ha h, step_keeps_lengths ha hl h⟩

end Sys2Proof.Activities
end

section
/-! The mailbox as a queue (40_mailbox.md rules R125, R126, R130 and R131): the invariant of the cursors, the entries held, and
what a push, a pop and a clear do to them. -/

namespace Sys2Proof.MailboxQueue

open Sys2Proof Sys2Proof.Machine Sys2Proof.Mailbox Sys2Proof.Frames

/-! ## The invariant of the cursors (rule R130 (a) and (b)) -/

/-- The four cursors are met in the order seen read, read, seen write, write within less than one turn of the ring. -/
def InOrder (seenRead read seenWrite write : Cursor) : Prop :=
  dist seenRead read + dist read seenWrite + dist seenWrite write ≤ 31

/-- Invariants (a) and (b), on the cursor registers alone. -/
def Inv (c : Cursors) : Prop :=
  c.write.Coded ∧ c.read.Coded ∧ InOrder (ungray5 c.read.seen) c.read.bin (ungray5 c.write.seen) c.write.bin

section Order

variable {sr r sw w : Cursor}

/-- Room for one more advance of the write cursor: it does not meet the read cursor as it is seen. -/
theorem InOrder.advance_write (h : InOrder sr r sw w) (hroom : inc5 w ≠ sr) : InOrder sr r sw (inc5 w) := by
  have hne : (inc5 w).toNat ≠ sr.toNat := fun heq => hroom (BitVec.eq_of_toNat_eq heq)
  simp only [InOrder, dist_eq, inc5_toNat] at *
  have := cursor_lt sr
  have := cursor_lt r
  have := cursor_lt sw
  have := cursor_lt w
  omega

/-- The read cursor has an entry to take: it does not stand at the write cursor as it is seen. -/
theorem InOrder.advance_read (h : InOrder sr r sw w) (hseen : r ≠ sw) : InOrder sr (inc5 r) sw w := by
  have hne : r.toNat ≠ sw.toNat := fun heq => hseen (BitVec.eq_of_toNat_eq heq)
  simp only [InOrder, dist_eq, inc5_toNat] at *
  have := cursor_lt sr
  have := cursor_lt r
  have := cursor_lt sw
  have := cursor_lt w
  omega

/-- A synchroniser goes forward on its path (rule R127). -/
theorem InOrder.sync_write {v : Cursor} (h : InOrder sr r sw w) (hv : onPath sw w v = true) : InOrder sr r v w := by
  have hsplit := onPath_split sw w v hv
  simp only [InOrder, dist_eq] at *
  have := cursor_lt sr
  have := cursor_lt r
  have := cursor_lt sw
  have := cursor_lt v
  have := cursor_lt w
  omega

theorem InOrder.sync_read {v : Cursor} (h : InOrder sr r sw w) (hv : onPath sr r v = true) : InOrder v r sw w := by
  have hsplit := onPath_split sr r v hv
  simp only [InOrder] at *
  omega

/-- The parts of the ring add up: from the read cursor to the write cursor through the write cursor as it is seen, and from the
read cursor as it is seen. -/
theorem InOrder.dist_add (h : InOrder sr r sw w) :
    dist r w = dist r sw + dist sw w ∧ dist sr w = dist sr r + dist r w := by
  simp only [InOrder, dist_eq] at *
  have := cursor_lt sr
  have := cursor_lt r
  have := cursor_lt sw
  have := cursor_lt w
  omega

end Order

/-- A push has room, a pop sees an entry, a synchroniser keeps to its path, and a clear puts all cursors together. -/
theorem inv_of_moves {c d : Cursors} (h : c.Moves d) (hc : Inv c) : Inv d := by
  obtain ⟨hwrite, hread, horder⟩ := hc
  cases h with
  | stay => exact ⟨hwrite, hread, horder⟩
  | push hroom =>
    refine ⟨rfl, hread, horder.advance_write fun heq => hroom ?_⟩
    rw [heq, gray5_ungray5]
  | pop hseen =>
    refine ⟨hwrite, rfl, horder.advance_read fun heq => hseen ?_⟩
    rw [hread, heq, gray5_ungray5]
  | sw v hv =>
    refine ⟨hwrite, hread, ?_⟩
    simpa [CursorSide.sync] using horder.sync_write hv
  | sr v hv =>
    refine ⟨hwrite, hread, ?_⟩
    simpa [CursorSide.sync] using horder.sync_read hv
  | clear => exact ⟨rfl, rfl, Nat.zero_le 31⟩

/-- Settles O17: the moves that a step can make of the cursors keep the invariant. -/
theorem cursorInvariantIsKept : Obligations.CursorInvariantIsKept :=
  fun _ _ hs h => inv_of_moves (step_moves h) hs

/-! ## The entries held (rule R130 (c)) -/

/-- The entry in the slot of a cursor. -/
def slotAt (slots : Vector Entry 32) (c : Cursor) : Entry := slots[c.toNat]'c.isLt

/-- The entries in the slots from the cursor `r` up to the cursor `w`. -/
def between (slots : Vector Entry 32) (r w : Cursor) : List Entry :=
  (List.range (dist r w)).map fun j => slotAt slots (r + BitVec.ofNat 5 j)

theorem held_eq (s : State) : held s = between s.slots s.rdBin s.wrBin := rfl

theorem held_of_eq {s t : State} (hslots : t.slots = s.slots) (hrd : t.rdBin = s.rdBin) (hwr : t.wrBin = s.wrBin) :
    held t = held s := by
  rw [held_eq, held_eq, hslots, hrd, hwr]

theorem length_held (s : State) : (held s).length = dist s.rdBin s.wrBin := by simp [held]

theorem dist_eq_zero {a b : Cursor} : dist a b = 0 ↔ a = b := by
  rw [← BitVec.toNat_inj, dist_eq]
  have := cursor_lt a
  have := cursor_lt b
  omega

theorem held_eq_nil {s : State} : held s = [] ↔ s.rdBin = s.wrBin := by
  rw [← List.length_eq_zero_iff, length_held, dist_eq_zero]

section Between

variable {slots : Vector Entry 32} {r w : Cursor}

/-- A push at the write cursor appends, where the ring has room. -/
theorem between_push (e : Entry) (h : dist r w ≤ 30) :
    between (slots.set w.toNat e w.isLt) r (inc5 w) = between slots r w ++ [e] := by
  have hr := cursor_lt r
  have hw := cursor_lt w
  have hdist : dist r (inc5 w) = dist r w + 1 := by
    rw [dist_eq] at h
    rw [dist_eq, dist_eq, inc5_toNat]
    omega
  have hlast : r + BitVec.ofNat 5 (dist r w) = w := by
    apply BitVec.eq_of_toNat_eq
    rw [add_ofNat_toNat, dist_eq]
    omega
  have hother : ∀ j, j < dist r w → w.toNat ≠ (r + BitVec.ofNat 5 j).toNat := by
    intro j hj
    rw [dist_eq] at hj
    rw [add_ofNat_toNat]
    omega
  rw [between, hdist, List.range_succ, List.map_append]
  refine congrArg₂ (· ++ ·) (List.map_congr_left fun j hj => ?_) ?_
  · exact Vector.getElem_set_ne _ _ (hother j (List.mem_range.1 hj))
  · rw [List.map_singleton, hlast]
    exact congrArg (fun x => [x]) (Vector.getElem_set_self _)

/-- A pop takes the entry at the read cursor. -/
theorem between_pop (h : dist r w ≠ 0) :
    between slots r w = slotAt slots r :: between slots (inc5 r) w := by
  have hr := cursor_lt r
  have hw := cursor_lt w
  have hdist : dist r w = dist (inc5 r) w + 1 := by
    rw [dist_eq] at h
    rw [dist_eq, dist_eq, inc5_toNat]
    omega
  rw [between, hdist, List.range_succ_eq_map, List.map_cons, List.map_map]
  refine congrArg₂ _ (by rw [BitVec.add_zero]) (List.map_congr_left fun j _ => ?_)
  have hnext : r + BitVec.ofNat 5 (j + 1) = inc5 r + BitVec.ofNat 5 j := by
    rw [inc5, BitVec.add_assoc, ← BitVec.ofNat_add, Nat.add_comm 1]
  rw [Function.comp, Nat.succ_eq_add_one, hnext]

end Between

/-! ## What the two ends of the mailbox see (rules R125 and R126) -/

section Views

variable {s : State} (hs : CursorInv s)

include hs

/-- Neither view is better than the truth: the producer sees at least the entries held, the consumer at most. -/
theorem views_bound :
    dist s.rdBin (ungray5 s.wrGrayQ) ≤ (held s).length ∧ (held s).length ≤ dist (ungray5 s.rdGrayP) s.wrBin := by
  obtain ⟨-, -, horder⟩ := hs
  obtain ⟨hread, hwrite⟩ := InOrder.dist_add horder
  rw [length_held]
  omega

theorem held_length_of_room (h : fullP s = false) : dist s.rdBin s.wrBin ≤ 30 := by
  obtain ⟨-, hview⟩ := views_bound hs
  have hne : dist (ungray5 s.rdGrayP) s.wrBin ≠ 31 := fun heq => by
    rw [(fullP_iff s).2 heq] at h
    cases h
  have hlt := dist_lt (ungray5 s.rdGrayP) s.wrBin
  rw [length_held] at hview
  omega

theorem emptyQ_iff : emptyQ s = true ↔ s.rdBin = ungray5 s.wrGrayQ := by
  obtain ⟨-, hgray, -⟩ := hs
  rw [emptyQ_eq_true, hgray]
  exact ⟨fun h => by rw [← h, ungray5_gray5], fun h => by rw [h, gray5_ungray5]⟩

/-- What the consumer sees is there. -/
theorem held_ne_of_seen (h : emptyQ s = false) : dist s.rdBin s.wrBin ≠ 0 := by
  obtain ⟨hview, -⟩ := views_bound hs
  have hne : dist s.rdBin (ungray5 s.wrGrayQ) ≠ 0 := fun heq => by
    rw [(emptyQ_iff hs).2 (dist_eq_zero.1 heq)] at h
    cases h
  rw [length_held] at hview
  omega

end Views

/-- Settles O12: the two arms of MBX.PUSH and of MBX.POP, and the bounds of the two views. -/
theorem pushAndPopFailExactlyWhenSeen : Obligations.PushAndPopFailExactlyWhenSeen := by
  intro s hs
  obtain ⟨hread, hwrite⟩ := views_bound hs
  have hlt := dist_lt (ungray5 s.rdGrayP) s.wrBin
  refine ⟨fun e => ⟨hwrite, _, exec_mbxPush e s, ?_⟩, hread, _, exec_mbxPop s, ?_⟩
  · obtain ⟨hfull, h⟩ | ⟨hroom, h⟩ := pushEntry_cases e s
    · rw [h]
      exact ⟨⟨fun _ => (fullP_iff s).1 hfull, fun _ => rfl⟩, fun _ => rfl, fun _ => rfl⟩
    · have hne : dist (ungray5 s.rdGrayP) s.wrBin ≠ 31 := fun heq => by
        rw [(fullP_iff s).2 heq] at hroom
        cases hroom
      rw [h]
      exact ⟨⟨nofun, fun heq => absurd heq hne⟩, nofun, fun heq => absurd heq (by omega)⟩
  · obtain ⟨hempty, h⟩ | ⟨hseen, h⟩ := popEntry_cases s
    · rw [h]
      exact ⟨⟨fun _ => (emptyQ_iff hs).1 hempty, fun _ => rfl⟩, fun _ => rfl⟩
    · have hne := held_ne_of_seen hs hseen
      rw [h]
      refine ⟨⟨nofun, fun heq => ?_⟩, fun hnil => ?_⟩
      · rw [(emptyQ_iff hs).2 heq] at hseen
        cases hseen
      · exact absurd (dist_eq_zero.2 (held_eq_nil.1 hnil)) hne

/-! ## First in, first out (rule R131) -/

theorem held_pushEntry {s : State} (hs : CursorInv s) (e : Entry) :
    held (pushEntry e s) = if (pushEntry e s).pOk then held s ++ [e] else held s := by
  obtain ⟨-, h⟩ | ⟨hroom, h⟩ := pushEntry_cases e s
  · rw [h]
    rfl
  · rw [h]
    exact between_push e (held_length_of_room hs hroom)

theorem held_enqAttempt {s t : State} (hs : CursorInv s) (h : enqAttempt s = .next t) :
    held t = if t.pOk then held s ++ [s.pStage] else held s := by
  obtain ⟨hroom, rfl⟩ | ⟨-, rfl⟩ := enqAttempt_next h
  · exact between_push s.pStage (held_length_of_room hs hroom)
  · rfl

/-- A pop, by itself or in a TICK, takes the oldest entry or finds none. -/
theorem held_pop {s t : State} (hs : CursorInv s) (hslots : t.slots = s.slots) (hwr : t.wrBin = s.wrBin)
    (h : (emptyQ s = true ∧ t.qEntry = none ∧ t.rdBin = s.rdBin) ∨
      (emptyQ s = false ∧ t.qEntry = some (s.slots[s.rdBin.toNat]'s.rdBin.isLt) ∧ t.rdBin = inc5 s.rdBin)) :
    (∃ e, t.qEntry = some e ∧ held s = e :: held t) ∨ (t.qEntry = none ∧ held t = held s) := by
  obtain ⟨-, hentry, hrd⟩ | ⟨hseen, hentry, hrd⟩ := h
  · exact .inr ⟨hentry, held_of_eq hslots hrd hwr⟩
  · refine .inl ⟨_, hentry, ?_⟩
    rw [held_eq, held_eq, hslots, hwr, hrd]
    exact between_pop (held_ne_of_seen hs hseen)

theorem held_clearMailbox (s : State) : held (clearMailbox s) = [] := held_eq_nil.2 rfl

theorem held_globalClear (s : State) : held (globalClear s) = [] := by
  obtain ⟨_, _, h, -⟩ := globalClear_shape s
  rw [h]
  exact held_eq_nil.2 rfl

/-- An operation of the ring writer, of the apply engine or of the arrival path holds what was held. -/
theorem held_of_elsewhere {i : Instr} {s t : State} (hi : writes i = true ∨ arrives i = true) (h : exec i s = .next t) :
    held t = held s := by
  obtain hi | hi := hi
  · rw [(exec_writerFrame hi h).frame]
    rfl
  · rw [(exec_arrivalFrame hi h).frame]
    rfl

/-- Settles O18: the operations of the mailbox one by one. -/
theorem mailboxDeliversInOrder : Obligations.MailboxDeliversInOrder := by
  intro i s t hs h
  refine ⟨?_, ?_, ?_, ?_, fun h1 h2 h3 h4 h5 h6 h7 => ?_⟩
  · rintro e rfl
    cases h
    exact held_pushEntry hs e
  · rintro (rfl | rfl)
    · exact held_enqAttempt hs h
    · exact held_enqAttempt (s := { s with pTries := 0 }) hs h
  · rintro (rfl | rfl)
    · cases h
      obtain ⟨hempty, h⟩ | ⟨hseen, h⟩ := popEntry_cases s
      · exact held_pop hs (by rw [h]) (by rw [h]) (.inl ⟨hempty, by rw [h], by rw [h]⟩)
      · exact held_pop hs (by rw [h]) (by rw [h]) (.inr ⟨hseen, by rw [h], by rw [h]⟩)
    · cases h
      obtain ⟨hempty, h⟩ | ⟨hseen, e, m, rfl, h, -⟩ := startTick_cases s
      · exact held_pop hs (by rw [h]) (by rw [h]) (.inl ⟨hempty, by rw [h], by rw [h]⟩)
      · exact held_pop hs (by rw [h]) (by rw [h]) (.inr ⟨hseen, by rw [h], by rw [h]⟩)
  · rintro (rfl | rfl)
    · rw [exec_mbxClr] at h
      cases h
      split
      · rfl
      · exact held_clearMailbox s
    · rw [exec_fClear] at h
      cases h
      split
      · rfl
      · exact held_globalClear s
  · cases i with
    | mbxPush e => exact absurd rfl (h1 e)
    | enq => exact absurd rfl h2
    | fEnqueue => exact absurd rfl h3
    | mbxPop => exact absurd rfl h4
    | tick => exact absurd rfl h5
    | mbxClr => exact absurd rfl h6
    | fClear => exact absurd rfl h7
    | sw k | sr k =>
      cases h
      rfl
    | pNop | arrive | fDuplicate | fRdCpuVersion | fRdFpgaVersion | fRdFpgaFunction | fReserved | fSynchronize
    | ackUpdate | ackEmit => exact held_of_elsewhere (.inr rfl) h
    | _ => exact held_of_elsewhere (.inl rfl) h

/-! ## A push, a synchroniser's step and a pop -/

/-- The write cursor one place on is on the path of its synchroniser, once a push has moved it there. -/
theorem onPath_inc5 (w : Cursor) : onPath w (inc5 w) (inc5 w) = true := by simp [onPath]

theorem pushEntry_of_room {s : State} (e : Entry) (h : fullP s = false) :
    pushEntry e s =
      { s with
        slots := s.slots.set s.wrBin.toNat e s.wrBin.isLt
        wrBin := inc5 s.wrBin, wrGray := gray5 (inc5 s.wrBin), pOk := true } := by
  obtain ⟨hfull, -⟩ | ⟨-, hpush⟩ := pushEntry_cases e s
  · rw [h] at hfull
    cases hfull
  · exact hpush

theorem popEntry_of_seen {s : State} (h : emptyQ s = false) :
    popEntry s =
      { s with
        qEntry := some (slotAt s.slots s.rdBin), rdBin := inc5 s.rdBin, rdGray := gray5 (inc5 s.rdBin) } := by
  obtain ⟨hempty, -⟩ | ⟨-, hpop⟩ := popEntry_cases s
  · rw [h] at hempty
    cases hempty
  · exact hpop

/-- With no entry held the three cursors that domain Q deals with are one. -/
theorem cursors_of_empty {s : State} (hs : CursorInv s) (h : held s = []) :
    s.rdBin = s.wrBin ∧ s.rdGray = gray5 s.wrBin ∧ ungray5 s.wrGrayQ = s.wrBin := by
  have hrd := held_eq_nil.1 h
  obtain ⟨hview, -⟩ := views_bound hs
  obtain ⟨-, hgray, -⟩ := hs
  rw [h, List.length_nil, Nat.le_zero, dist_eq_zero] at hview
  exact ⟨hrd, hrd ▸ hgray, hview ▸ hrd⟩

/-- The synchroniser's step to the write cursor as a push has left it. -/
theorem syncWrite_named {s : State} {v : Cursor} (h : onPath (ungray5 s.wrGrayQ) s.wrBin v = true) :
    syncWrite (some v) s = { s with wrGrayQ := gray5 v, draws := s.draws + 1 } := by
  rw [syncWrite, syncSample_named _ _ v _ h]

theorem gray5_ne_inc5 (w : Cursor) : gray5 w ≠ gray5 (inc5 w) := by
  revert w
  decide

/-- A pop at a mailbox that was empty until one push, once its synchroniser has caught up. -/
theorem pop_after_push {s u : State} {e : Entry} (hs : CursorInv s) (hempty : held s = [])
    (hslots : u.slots = s.slots.set s.wrBin.toNat e s.wrBin.isLt) (hwr : u.wrBin = inc5 s.wrBin)
    (hrd : u.rdBin = s.rdBin) (hgray : u.rdGray = s.rdGray) (hseen : u.wrGrayQ = gray5 (inc5 s.wrBin)) :
    emptyQ u = false ∧ slotAt u.slots u.rdBin = e ∧ held (popEntry u) = [] := by
  obtain ⟨hrdwr, hrdgray, -⟩ := cursors_of_empty hs hempty
  have hsees : emptyQ u = false := by
    rw [emptyQ_eq_false, hgray, hseen, hrdgray]
    exact gray5_ne_inc5 s.wrBin
  refine ⟨hsees, ?_, ?_⟩
  · rw [hslots, hrd, hrdwr]
    exact Vector.getElem_set_self _
  · rw [popEntry_of_seen hsees, held_eq_nil, hwr, hrd, hrdwr]

/-- Settles O19: the push moves the write cursor off the read cursor, the synchroniser follows, the pop finds the slot. -/
theorem pushedEntryIsPoppedAfterSync : Obligations.PushedEntryIsPoppedAfterSync := by
  intro e s hs hempty hroom
  obtain ⟨-, -, hseen⟩ := cursors_of_empty hs hempty
  have hpath : onPath (ungray5 (pushEntry e s).wrGrayQ) (pushEntry e s).wrBin (inc5 s.wrBin) = true := by
    rw [pushEntry_of_room e hroom, hseen]
    exact onPath_inc5 s.wrBin
  have hcross := syncWrite_named hpath
  rw [pushEntry_of_room e hroom] at hcross
  obtain ⟨hsees, hslot, hheld⟩ := pop_after_push (u := syncWrite (some (inc5 s.wrBin)) (pushEntry e s)) hs hempty
    (by rw [pushEntry_of_room e hroom, hcross]) (by rw [pushEntry_of_room e hroom, hcross])
    (by rw [pushEntry_of_room e hroom, hcross]) (by rw [pushEntry_of_room e hroom, hcross])
    (by rw [pushEntry_of_room e hroom, hcross])
  refine ⟨_, rfl, ?_, hheld⟩
  exact (congrArg State.qEntry (popEntry_of_seen hsees)).trans (congrArg some hslot)

/-! ## The retry loop (rule R134) -/

theorem enqAttempt_of_room {s : State} (h : fullP s = false) :
    enqAttempt s = .next
      { s with
        slots := s.slots.set s.wrBin.toNat s.pStage s.wrBin.isLt
        wrBin := inc5 s.wrBin, wrGray := gray5 (inc5 s.wrBin), pOk := true, pTries := 0 } := by
  simp [enqAttempt, h, pushEntry_of_room s.pStage h]

theorem enqAttempt_of_full {s : State} (h : fullP s = true) (hlimit : s.cfg.retryLimit ≠ some (s.pTries + 1)) :
    enqAttempt s = .next { s with pOk := false, pTries := s.pTries + 1, pTodo := .enq :: s.pTodo } := by
  simp [enqAttempt, h, hlimit, holdP]

theorem enqAttempt_of_limit {s : State} (h : fullP s = true) (hlimit : s.cfg.retryLimit = some (s.pTries + 1)) :
    enqAttempt s = .fault (.mailboxOverflow s.wrBin s.rdGrayP) := by
  simp [enqAttempt, h, hlimit]

/-- Settles O20: the arms of an attempt, by `full_p` and the count; F.ENQUEUE sets the count to 0 first. -/
theorem retryLoopAttempts : Obligations.RetryLoopAttempts := fun s =>
  ⟨fun hroom => enqAttempt_of_room hroom, fun hfull hlimit => enqAttempt_of_full hfull hlimit,
    fun hfull hlimit => enqAttempt_of_limit hfull hlimit, rfl,
    fun hroom => enqAttempt_of_room (s := { s with pTries := 0 }) hroom⟩

end Sys2Proof.MailboxQueue
end

section
/-! A turn of the schedule, case by case (00_scope.md rule R11, 60_exceptions.md rules R273 to R280): what it takes, what it
refuses, and what the step then is. -/

namespace Sys2Proof.Turns

open Sys2Proof Sys2Proof.Machine

/-! ## The step of what a turn comes to -/

section Step

variable {s : State}

theorem step_of_quiet {t : State} (h : fetch s = .quiet t) : step s = .next t := by rw [step, h]

theorem step_of_bad {r : Refusal} (h : fetch s = .bad r) : step s = .refused r := by rw [step, h]

theorem step_of_run {who : Agent} {i : Instr} {u : State} (h : fetch s = .run who i u) :
    step s = onNext (exec i u) fun v => .next (endTurn who i u v) := by rw [step, h]

theorem step_of_rendezvous {c : Instr} {u : State} (h : fetch s = .rendezvous c u) :
    step s = onNext (exec .segReset u) (exec c) := by rw [step, h]

end Step

/-! ## The turns of P and of Q -/

section Agents

variable {s : State} {ts : List Turn}

theorem fetch_p (h : s.sched = .p :: ts) : fetch s = fetchP { s with sched := ts } := by rw [fetch, h]

theorem fetch_q (h : s.sched = .q :: ts) : fetch s = fetchQ { s with sched := ts } := by rw [fetch, h]

theorem fetchP_of_pending {l : Loc} {v : Word} {ws : List (Loc × Word)} (h : s.pPending = (l, v) :: ws) :
    fetchP s = .quiet (bramWrite .p l v { s with pPending := ws }) := by rw [fetchP, h]

theorem fetchQ_of_pending {l : Loc} {v : Word} {ws : List (Loc × Word)} (h : s.qPending = (l, v) :: ws) :
    fetchQ s = .quiet (endOfTick (bramWrite .q l v { s with qPending := ws })) := by rw [fetchQ, h]

theorem fetchP_of_todo {i : Instr} {is : List Instr} (hpend : s.pPending = []) (h : s.pTodo = i :: is) :
    fetchP s = .run .p i { s with pTodo := is } := by rw [fetchP, hpend]; simp only [h]

theorem fetchQ_of_todo {i : Instr} {is : List Instr} (hpend : s.qPending = []) (h : s.qTodo = i :: is) :
    fetchQ s = .run .q i { s with qTodo := is } := by rw [fetchQ, hpend]; simp only [h]

theorem fetchP_of_request {r : Request} {rs : List Request} (hpend : s.pPending = []) (htodo : s.pTodo = [])
    (h : s.pIn = r :: rs) : fetchP s = offer .p r { s with pIn := rs } := by
  rw [fetchP, hpend]; simp only [htodo, h]

theorem fetchQ_of_request {r : Request} {rs : List Request} (hpend : s.qPending = []) (htodo : s.qTodo = [])
    (h : s.qIn = r :: rs) : fetchQ s = offer .q r { s with qIn := rs } := by
  rw [fetchQ, hpend]; simp only [htodo, h]

theorem fetchP_of_idle (hpend : s.pPending = []) (htodo : s.pTodo = []) (h : s.pIn = []) : fetchP s = .quiet s := by
  rw [fetchP, hpend]; simp only [htodo, h]

theorem fetchQ_of_idle (hpend : s.qPending = []) (htodo : s.qTodo = []) (h : s.qIn = []) : fetchQ s = .quiet s := by
  rw [fetchQ, hpend]; simp only [htodo, h]

end Agents

/-! ## A request at a port -/

section Offer

variable {who : Agent} {r : Request} {s : State} {i : Instr}

theorem offer_of_error {e : DecodeError} (h : decodeRequest s.cfg who r = .error e) :
    offer who r s = .bad (.badRequest e) := by rw [offer, h]

theorem offer_of_illFormed (h : decodeRequest s.cfg who r = .ok i) (hwf : i.wellFormed s.cfg = false) :
    offer who r s = .bad .illFormed := by
  rw [offer, h]
  simp [hwf]

theorem offer_of_wellFormed (h : decodeRequest s.cfg who r = .ok i) (hwf : i.wellFormed s.cfg = true)
    (hi : i ≠ .segReset) : offer who r s = .run who i s := by
  rw [offer, h]
  simp [hwf, hi]

theorem offer_of_rendezvous {c : Instr} {t : State} (h : decodeRequest s.cfg who r = .ok .segReset)
    (hrdv : rendezvous s = some (c, t)) : offer who r s = .rendezvous c t := by
  rw [offer, h]
  simp [Instr.wellFormed, hrdv]

theorem offer_of_no_rendezvous (h : decodeRequest s.cfg who r = .ok .segReset) (hrdv : rendezvous s = none) :
    offer who r s = .bad .outsideRendezvous := by
  rw [offer, h]
  simp [Instr.wellFormed, hrdv]

end Offer

section Requests

variable {s : State} {ts : List Turn} {r : Request} {rs : List Request}

/-- A turn of an idle agent P with a request at its port. -/
theorem fetch_p_request (hsched : s.sched = .p :: ts) (hpend : s.pPending = []) (htodo : s.pTodo = [])
    (hin : s.pIn = r :: rs) : fetch s = offer .p r { s with sched := ts, pIn := rs } :=
  (fetch_p hsched).trans (fetchP_of_request (s := { s with sched := ts }) hpend htodo hin)

theorem fetch_q_request (hsched : s.sched = .q :: ts) (hpend : s.qPending = []) (htodo : s.qTodo = [])
    (hin : s.qIn = r :: rs) : fetch s = offer .q r { s with sched := ts, qIn := rs } :=
  (fetch_q hsched).trans (fetchQ_of_request (s := { s with sched := ts }) hpend htodo hin)

/-- A request that selects no operation is refused. -/
theorem step_p_of_error {e : DecodeError} (hsched : s.sched = .p :: ts) (hpend : s.pPending = []) (htodo : s.pTodo = [])
    (hin : s.pIn = r :: rs) (h : decodeRequest s.cfg .p r = .error e) : step s = .refused (.badRequest e) :=
  step_of_bad ((fetch_p_request hsched hpend htodo hin).trans (offer_of_error (s := { s with sched := ts, pIn := rs }) h))

theorem step_q_of_error {e : DecodeError} (hsched : s.sched = .q :: ts) (hpend : s.qPending = []) (htodo : s.qTodo = [])
    (hin : s.qIn = r :: rs) (h : decodeRequest s.cfg .q r = .error e) : step s = .refused (.badRequest e) :=
  step_of_bad ((fetch_q_request hsched hpend htodo hin).trans (offer_of_error (s := { s with sched := ts, qIn := rs }) h))

end Requests

/-! ## The words that are not offered (30_encoding.md rule R106) -/

theorem pcmd_of_encode {i : Instr} {w : Byte} {e : Entry} (h : encode i = some (.pcmd w e)) : w.toNat ≤ 2 := by
  cases i <;> cases h <;> decide

theorem ccmd_of_encode {i : Instr} {w : Byte} (h : encode i = some (.ccmd w)) : w.toNat ≤ 1 := by
  cases i <;> cases h <;> decide

/-- A `WCMD` word that the block does not offer: a zero bit set, a reserved field, or a field that must be 0. -/
def ReservedWcmd (w : BitVec 32) : Prop :=
  w.toNat / 32 % 8 ≠ 0 ∨ w.toNat / 2 ^ 24 ≠ 0 ∨ 5 ≤ w.toNat % 8 ∨ w.toNat / 8 % 4 = 3 ∨
    ((w.toNat % 8 = 0 ∨ w.toNat % 8 = 4) ∧ w.toNat / 8 % 4 ≠ 0) ∨ (w.toNat % 8 ≠ 2 ∧ w.toNat / 256 % 65536 ≠ 0)

theorem wcmd_of_encode {i : Instr} {w : BitVec 32} {src : WSrc} (h : encode i = some (.wcmd w src)) :
    ¬ReservedWcmd w := by
  have write (n : BitVec 16) (ch : BitVec 2) (hch : ch.toNat < 3) : ¬ReservedWcmd (wcmdWord n ch 2) := by
    have hn := n.isLt
    have htwo : (2 : BitVec 3).toNat = 2 := rfl
    rw [ReservedWcmd, Encoding.wcmdWord_toNat, htwo]
    omega
  cases i with
  | segWriteMod n src =>
    cases h
    exact write n 0 (by decide)
  | segWritePstm n src =>
    cases h
    exact write n 1 (by decide)
  | segWriteGstm n src =>
    cases h
    exact write n 2 (by decide)
  | _ => cases h <;> unfold ReservedWcmd <;> decide

/-- A decoder that accepts only the words its operations encode to answers an error for every other word. -/
theorem error_of_not_ok {o : Except DecodeError Instr} (h : ∀ i, o ≠ .ok i) : ∃ e, o = .error e := by
  cases o with
  | error e => exact ⟨e, rfl⟩
  | ok i => exact absurd rfl (h i)

theorem decodeRequest_wrongAgent {c : Params} {who : Agent} {r : Request} (h : r.agent ≠ who) :
    decodeRequest c who r = .error .wrongAgent := if_pos h

theorem decodeFrame_of_length {c : Params} {image : List Byte} (h : image.length ≠ 128 + 2 * c.n) :
    decodeFrame c image = .error .frameLength := if_neg h

/-! ## The clear rendezvous (41_ring_writer.md rule R159) -/

theorem decodeRequest_segReset (c : Params) (src : WSrc) :
    decodeRequest c .q (.wcmd 0x00000004#32 src) = .ok .segReset := rfl

/-- What P has next is no clear, or the rendezvous has to wait. -/
def NoRendezvous (s : State) : Prop :=
  s.qBusy = true ∨ s.pPending ≠ [] ∨ (s.pTodo = [] ∧ s.pIn = []) ∨
    (∃ i is, s.pTodo = i :: is ∧ i ≠ .mbxClr ∧ i ≠ .fClear) ∨
    (s.pTodo = [] ∧ ∃ r ps, s.pIn = r :: ps ∧ decodeRequest s.cfg .p r ≠ .ok .mbxClr)

/-- F.CLEAR is at no port. -/
theorem decodeRequest_ne_fClear (c : Params) (who : Agent) (r : Request) : decodeRequest c who r ≠ .ok .fClear := by
  intro h
  obtain ⟨_, henc, -⟩ := Activities.encode_of_decodeRequest h
  cases henc

theorem rendezvous_eq_none {s : State} (h : NoRendezvous s) : rendezvous s = none := by
  by_contra hne
  obtain ⟨⟨c, t⟩, hsome⟩ := Option.ne_none_iff_exists'.1 hne
  obtain ⟨hidle, hpend, hnext⟩ := rendezvous_some s t c hsome
  obtain ⟨hclear, hshape⟩ := nextClear_some s t c hnext
  obtain hbusy | hdue | ⟨htodo, hin⟩ | ⟨i, is, htodo, hi, hi'⟩ | ⟨htodo, r, ps, hin, hdec⟩ := h
  · simp [hidle] at hbusy
  · exact hdue hpend
  · obtain ⟨_, htodo', -⟩ | ⟨-, _, _, hin', -⟩ := hshape
    · simp [htodo] at htodo'
    · simp [hin] at hin'
  · obtain ⟨_, htodo', -⟩ | ⟨htodo', -⟩ := hshape
    · rw [htodo] at htodo'
      cases htodo'
      exact hclear.elim hi hi'
    · simp [htodo] at htodo'
  · obtain ⟨_, htodo', -⟩ | ⟨-, _, _, hin', hdec', -⟩ := hshape
    · simp [htodo] at htodo'
    · rw [hin] at hin'
      cases hin'
      obtain rfl | rfl := hclear
      · exact hdec hdec'
      · exact decodeRequest_ne_fClear _ _ _ hdec'

/-! ## What a turn does -/

section Turn

variable {s : State} {ts : List Turn} {i : Instr} {is : List Instr} {r : Request} {rs : List Request}

theorem onNext_next (o : Result) : (onNext o fun u => .next u) = o := by cases o <;> rfl

theorem step_p_of_pending {l : Loc} {v : Word} {ws : List (Loc × Word)} (hsched : s.sched = .p :: ts)
    (hpend : s.pPending = (l, v) :: ws) : step s = .next (bramWrite .p l v { s with sched := ts, pPending := ws }) :=
  step_of_quiet ((fetch_p hsched).trans (fetchP_of_pending (s := { s with sched := ts }) hpend))

theorem step_q_of_pending {l : Loc} {v : Word} {ws : List (Loc × Word)} (hsched : s.sched = .q :: ts)
    (hpend : s.qPending = (l, v) :: ws) :
    step s = .next (endOfTick (bramWrite .q l v { s with sched := ts, qPending := ws })) :=
  step_of_quiet ((fetch_q hsched).trans (fetchQ_of_pending (s := { s with sched := ts }) hpend))

theorem step_p_of_todo (hsched : s.sched = .p :: ts) (hpend : s.pPending = []) (htodo : s.pTodo = i :: is) :
    step s = onNext (exec i { s with sched := ts, pTodo := is }) fun u =>
      .next (if interleaves i then { u with mem := s.mem, bus := s.bus, pPending := newWrites s u } else u) :=
  step_of_run ((fetch_p hsched).trans (fetchP_of_todo (s := { s with sched := ts }) hpend htodo))

theorem step_q_of_todo (hsched : s.sched = .q :: ts) (hpend : s.qPending = []) (htodo : s.qTodo = i :: is) :
    step s = onNext (exec i { s with sched := ts, qTodo := is }) fun u =>
      .next (endOfTick
        (if interleaves i then { u with mem := s.mem, bus := s.bus, qPending := newWrites s u } else u)) :=
  step_of_run ((fetch_q hsched).trans (fetchQ_of_todo (s := { s with sched := ts }) hpend htodo))

/-- At P's port no operation leaves its device writes to later turns. -/
theorem step_p_of_request (hsched : s.sched = .p :: ts) (hpend : s.pPending = []) (htodo : s.pTodo = [])
    (hin : s.pIn = r :: rs) (hdec : decodeRequest s.cfg .p r = .ok i) (hwf : i.wellFormed s.cfg = true) :
    step s = exec i { s with sched := ts, pIn := rs } := by
  have hagent := Activities.agent_of_decodeRequest hdec
  obtain ⟨r', henc, -⟩ := Activities.encode_of_decodeRequest hdec
  have hnever : interleaves i = false :=
    Activities.interleaves_of_encode henc (by rintro rfl; cases hagent)
  have hrun := (fetch_p_request hsched hpend htodo hin).trans
    (offer_of_wellFormed (s := { s with sched := ts, pIn := rs }) hdec hwf (by rintro rfl; cases hagent))
  rw [step_of_run hrun]
  simp only [endTurn, hnever]
  exact onNext_next _

theorem step_q_of_request (hsched : s.sched = .q :: ts) (hpend : s.qPending = []) (htodo : s.qTodo = [])
    (hin : s.qIn = r :: rs) (hdec : decodeRequest s.cfg .q r = .ok i) (hwf : i.wellFormed s.cfg = true)
    (hi : i ≠ .segReset) :
    step s = onNext (exec i { s with sched := ts, qIn := rs }) fun u =>
      .next (endOfTick
        (if interleaves i then { u with mem := s.mem, bus := s.bus, qPending := newWrites s u } else u)) :=
  step_of_run ((fetch_q_request hsched hpend htodo hin).trans
    (offer_of_wellFormed (s := { s with sched := ts, qIn := rs }) hdec hwf hi))

theorem step_sw {k : Option Cursor} (hsched : s.sched = .sw k :: ts) : step s = exec (.sw k) { s with sched := ts } := by
  rw [step_of_run (by rw [fetch, hsched])]
  exact onNext_next _

theorem step_sr {k : Option Cursor} (hsched : s.sched = .sr k :: ts) : step s = exec (.sr k) { s with sched := ts } := by
  rw [step_of_run (by rw [fetch, hsched])]
  exact onNext_next _

theorem step_emit {k : Nat} (hsched : s.sched = .emit :: ts) (hdue : s.emitDue = k + 1) :
    step s = exec .ackEmit { s with sched := ts, emitDue := k } := by
  rw [step_of_run (who := .p) (i := .ackEmit) (u := { s with sched := ts, emitDue := k })
    (by rw [fetch, hsched]; simp only [fetchEmit, hdue])]
  exact onNext_next _

theorem endOfTick_eq (u : State) :
    endOfTick u = { u with qBusy := if u.qTodo = [] ∧ u.qPending = [] then false else u.qBusy } := by
  rw [endOfTick]
  split <;> rfl

theorem interleaves_iff (i : Instr) : interleaves i = true ↔
    i = .fSynchronize ∨ i = .tick ∨ i = .aWriteMod ∨ i = .aConfigSilencer ∨ i = .aHeaderOnly ∨ i = .aModDelay ∨
      i = .aDrive ∨ i = .aPointStm ∨ i = .aGainStm := by
  cases i <;> simp [interleaves, leftOfTick]

end Turn

/-! ## SEG.RESET with the clear of P -/

section Rendezvous

variable {s : State} {ts : List Turn} {src : WSrc} {rs : List Request}

/-- SEG.RESET at the port of an idle agent Q, with `q_busy` = 0 and no device write of P due. -/
structure AtRendezvous (s : State) (ts : List Turn) (src : WSrc) (rs : List Request) : Prop where
  sched : s.sched = .q :: ts
  pending : s.qPending = []
  todo : s.qTodo = []
  port : s.qIn = .wcmd 0x00000004#32 src :: rs
  idle : s.qBusy = false
  noWrites : s.pPending = []

/-- The clear that P has next, left of its activity or at its port, and the state without it. -/
theorem fetch_rendezvous_of_next (h : AtRendezvous s ts src rs) {c : Instr} {t : State}
    (hnext : nextClear { s with sched := ts, qIn := rs } = some (c, t)) : fetch s = .rendezvous c t := by
  rw [fetch_q_request h.sched h.pending h.todo h.port]
  refine offer_of_rendezvous (decodeRequest_segReset _ src) ?_
  rw [rendezvous, ← hnext]
  exact if_neg (by simp [h.idle, h.noWrites])

theorem isClear_iff (c : Instr) : isClear c = true ↔ c = .mbxClr ∨ c = .fClear := by simp [isClear]

theorem fetch_rendezvous_of_todo (h : AtRendezvous s ts src rs) {c : Instr} {is : List Instr} (htodo : s.pTodo = c :: is)
    (hc : c = .mbxClr ∨ c = .fClear) :
    fetch s = .rendezvous c { s with sched := ts, qIn := rs, pTodo := is } := by
  apply fetch_rendezvous_of_next h
  simp [nextClear, htodo, (isClear_iff c).2 hc]

theorem fetch_rendezvous_of_port (h : AtRendezvous s ts src rs) {r : Request} {ps : List Request} (htodo : s.pTodo = [])
    (hin : s.pIn = r :: ps) (hdec : decodeRequest s.cfg .p r = .ok .mbxClr) :
    fetch s = .rendezvous .mbxClr { s with sched := ts, qIn := rs, pIn := ps } := by
  apply fetch_rendezvous_of_next h
  simp [nextClear, htodo, hin, hdec, isClear]

/-- What the clear rendezvous leaves, whichever of the two clears it is. -/
theorem rendezvous_leaves {u : State} {c : Instr} (h : fetch s = .rendezvous c u) :
    ∃ t, step s = .next t ∧ t.modCycle = 2#32 ∧ t.stmCycle = 0#32 ∧ t.gainMode = u.gainMode ∧ t.wDone = true ∧
      t.wrBin = 0#5 ∧ t.rdBin = 0#5 ∧ t.rdGrayP = 0#5 ∧ t.wrGrayQ = 0#5 ∧ held t = [] ∧ t.qBusy = u.qBusy ∧
      t.sched = u.sched ∧ t.qIn = u.qIn ∧ t.qTodo = u.qTodo ∧ t.qPending = u.qPending := by
  refine ⟨_, step_rendezvous s u c h, ?_⟩
  split
  next => exact ⟨rfl, rfl, rfl, rfl, rfl, rfl, rfl, rfl, MailboxQueue.held_eq_nil.2 rfl, rfl, rfl, rfl, rfl, rfl⟩
  next =>
    obtain ⟨m, b, hshape, -⟩ := globalClear_shape (segResetCounters u)
    rw [hshape]
    exact ⟨rfl, rfl, rfl, rfl, rfl, rfl, rfl, rfl, MailboxQueue.held_eq_nil.2 rfl, rfl, rfl, rfl, rfl, rfl⟩

theorem rendezvous_completes (h : AtRendezvous s ts src rs)
    (hclear : (∃ is, s.pTodo = .mbxClr :: is) ∨ (∃ is, s.pTodo = .fClear :: is) ∨
      (s.pTodo = [] ∧ ∃ r ps, s.pIn = r :: ps ∧ decodeRequest s.cfg .p r = .ok .mbxClr)) :
    ∃ t, step s = .next t ∧ t.modCycle = 2#32 ∧ t.stmCycle = 0#32 ∧ t.gainMode = s.gainMode ∧ t.wDone = true ∧
      t.wrBin = 0#5 ∧ t.rdBin = 0#5 ∧ t.rdGrayP = 0#5 ∧ t.wrGrayQ = 0#5 ∧ held t = [] ∧ t.qBusy = false ∧
      t.sched = ts ∧ t.qIn = rs ∧ t.qTodo = [] ∧ t.qPending = [] := by
  rw [← h.idle, ← h.todo, ← h.pending]
  obtain ⟨is, htodo⟩ | ⟨is, htodo⟩ | ⟨htodo, r, ps, hin, hdec⟩ := hclear
  · exact rendezvous_leaves (fetch_rendezvous_of_todo h htodo (.inl rfl))
  · exact rendezvous_leaves (fetch_rendezvous_of_todo h htodo (.inr rfl))
  · exact rendezvous_leaves (fetch_rendezvous_of_port h htodo hin hdec)

end Rendezvous

/-! ## The obligations -/

/-- Settles O4, from what each port's decoder accepts. -/
theorem requestsNotOfferedAreRefused : Obligations.RequestsNotOfferedAreRefused := by
  refine ⟨?pcmd, ?ccmd, ?wcmd, ?domain, ?length, ?kind, ?form, ?reset⟩
  case pcmd =>
    intro s w e ts rs hsched hpend htodo hin hw
    obtain ⟨err, herr⟩ := error_of_not_ok (o := decodePcmd w e) fun i hi => by
      obtain ⟨_, henc⟩ := Encoding.encode_of_decodePcmd hi
      exact absurd (pcmd_of_encode henc) (by omega)
    exact ⟨err, step_p_of_error hsched hpend htodo hin herr⟩
  case ccmd =>
    intro s w ts rs hsched hpend htodo hin hw
    obtain ⟨err, herr⟩ := error_of_not_ok (o := decodeCcmd w) fun i hi =>
      absurd (ccmd_of_encode (Encoding.encode_of_decodeCcmd hi)) (by omega)
    exact ⟨err, step_q_of_error hsched hpend htodo hin herr⟩
  case wcmd =>
    intro s w src ts rs hsched hpend htodo hin hw
    obtain ⟨err, herr⟩ := error_of_not_ok (o := decodeWcmd w src) fun i hi => by
      obtain ⟨_, henc⟩ := Encoding.encode_of_decodeWcmd hi
      exact wcmd_of_encode henc hw
    exact ⟨err, step_q_of_error hsched hpend htodo hin herr⟩
  case domain =>
    intro s r ts rs
    exact ⟨fun hsched hpend htodo hin hr =>
        step_p_of_error hsched hpend htodo hin (decodeRequest_wrongAgent (by simp [hr])),
      fun hsched hpend htodo hin hr =>
        step_q_of_error hsched hpend htodo hin (decodeRequest_wrongAgent (by simp [hr]))⟩
  case length =>
    intro s image ts rs hsched hpend htodo hin hlen
    exact step_p_of_error hsched hpend htodo hin (decodeFrame_of_length hlen)
  case kind =>
    intro s n ts rs hsched hpend htodo
    refine ⟨fun ps ch hch hin => step_q_of_error hsched hpend htodo hin ?_,
      fun ws hin => step_q_of_error hsched hpend htodo hin (Encoding.decodeWcmd_write_gstm n _)⟩
    obtain rfl | rfl := hch
    · exact Encoding.decodeWcmd_write_mod n _
    · exact Encoding.decodeWcmd_write_pstm n _
  case form =>
    intro s r i ts rs hwf
    exact ⟨fun hsched hpend htodo hin hdec => step_of_bad ((fetch_p_request hsched hpend htodo hin).trans
        (offer_of_illFormed (s := { s with sched := ts, pIn := rs }) hdec hwf)),
      fun hsched hpend htodo hin hdec => step_of_bad ((fetch_q_request hsched hpend htodo hin).trans
        (offer_of_illFormed (s := { s with sched := ts, qIn := rs }) hdec hwf))⟩
  case reset =>
    intro s src ts rs hsched hpend htodo hin hno
    exact step_of_bad ((fetch_q_request hsched hpend htodo hin).trans
      (offer_of_no_rendezvous (decodeRequest_segReset _ src)
        (rendezvous_eq_none (s := { s with sched := ts, qIn := rs }) hno)))

/-- Settles O7. -/
theorem idleBlockHoldsItsState : Obligations.IdleBlockHoldsItsState := by
  intro s ts
  refine ⟨fun hsched => step_of_quiet (by rw [fetch, hsched]), fun hsched hpend htodo hin => ?p,
    fun hsched hpend htodo hin => ?q, fun hsched hdue => ?emit⟩
  case p => exact step_of_quiet ((fetch_p hsched).trans (fetchP_of_idle (s := { s with sched := ts }) hpend htodo hin))
  case q => exact step_of_quiet ((fetch_q hsched).trans (fetchQ_of_idle (s := { s with sched := ts }) hpend htodo hin))
  case emit => exact step_of_quiet (by rw [fetch, hsched]; simp only [fetchEmit, hdue])

/-- Settles O5: the turns by what the agent has next, the rendezvous by what the two clears leave. -/
theorem stepRunsTheDecodedOperation : Obligations.StepRunsTheDecodedOperation := by
  refine ⟨fun _ _ _ _ _ => step_p_of_pending, ?qWrite, fun _ _ _ _ _ => step_p_of_request,
    fun _ _ _ _ _ => step_q_of_request, ?rendezvous, fun _ _ _ _ => step_p_of_todo, fun _ _ _ _ => step_q_of_todo,
    fun _ _ _ => step_sw, fun _ _ _ => step_sr, fun _ _ _ => step_emit, interleaves_iff, fun _ => rfl⟩
  case qWrite =>
    intro s ts l v ws hsched hpend
    rw [step_q_of_pending hsched hpend, endOfTick_eq]
    rfl
  case rendezvous =>
    intro s ts src rs hsched hpend htodo hin hbusy hnone
    have h : AtRendezvous s ts src rs := ⟨hsched, hpend, htodo, hin, hbusy, hnone⟩
    exact ⟨fun c is hleft hc => step_of_rendezvous (fetch_rendezvous_of_todo h hleft hc),
      fun r ps hleft hport hdec => step_of_rendezvous (fetch_rendezvous_of_port h hleft hport hdec),
      rendezvous_completes h⟩

end Sys2Proof.Turns
end

section
/-! The reset: what the state after it holds, and that it meets every invariant (70_reset_and_hazards.md section 1,
10_state.md rule R50). -/

namespace Sys2Proof.PowerOn

open Sys2Proof Sys2Proof.Machine

/-- The sets of control flags of the illustration, one bit each. -/
theorem illustration_flags : (∀ m ∈ Config.illustration.fpgaMasks, ∃ i : Fin 16, m = 1#16 <<< i.val) ∧
    Config.illustration.fpgaMasks.Pairwise (· ≠ ·) := by
  refine ⟨?_, by decide⟩
  simp only [Params.fpgaMasks, List.forall_mem_cons, List.not_mem_nil, false_imp_iff, implies_true, and_true]
  decide

/-- No single register of the illustration lies in a range. -/
theorem illustration_regs_apart :
    ∀ a ∈ Config.illustration.singleRegs, ∀ r ∈ Config.illustration.ranges, apart (a.toNat, 1) r := by
  simp only [Params.singleRegs, List.forall_mem_cons, List.not_mem_nil, false_imp_iff, implies_true, and_true]
  and_intros <;> decide

/-- The parameters that the state after reset carries meet the constraints of rule R5. -/
theorem illustration_meets_constraints : Config.illustration.Valid :=
  ⟨by decide, illustration_flags, by decide, by decide, by decide, by decide,
    ⟨by decide, by decide, illustration_regs_apart⟩, by decide, by decide, by decide⟩

/-- The cursors, all 0, and the mailbox with them. -/
theorem mailbox_of_afterPowerOn {s : State} (h : AfterPowerOn s) :
    CursorInv s ∧ held s = [] ∧ fullP s = false ∧ emptyQ s = true := by
  obtain ⟨⟨hwr, hrd, hwrGray, hrdGray, hseenWr, hseenRd⟩, -⟩ := h
  refine ⟨?_, MailboxQueue.held_eq_nil.2 (hrd.trans hwr.symm), ?_, ?_⟩
  · rw [CursorInv, hwr, hrd, hwrGray, hrdGray, hseenWr, hseenRd]
    decide
  · rw [fullP, hwr, hseenRd]
    decide
  · rw [emptyQ, hrdGray, hseenWr]
    decide

theorem afterPowerOn_reset : AfterPowerOn State.reset := by
  refine ⟨⟨rfl, rfl, rfl, rfl, rfl, rfl⟩, rfl, rfl, rfl, rfl, rfl, rfl, rfl⟩

theorem lengths_reset : LengthInv State.reset := by
  refine ⟨fun e he => ?_, rfl, rfl, nofun, rfl, nofun⟩
  obtain rfl : e = zeroEntry Config.illustration := by simpa [State.reset] using he
  exact Activities.length_zeroEntry _

theorem activity_reset : ActivityInv State.reset := ⟨nofun, nofun, by decide, by decide⟩

/-- Settles O58. -/
theorem resetMeetsTheInvariants : Obligations.ResetMeetsTheInvariants :=
  ⟨afterPowerOn_reset, rfl, (mailbox_of_afterPowerOn afterPowerOn_reset).1, activity_reset, lengths_reset,
    illustration_meets_constraints⟩

theorem afterPowerOn_powerOnReset (s : State) : AfterPowerOn (powerOnReset s) :=
  ⟨⟨rfl, rfl, rfl, rfl, rfl, rfl⟩, rfl, rfl, rfl, rfl, rfl, rfl, rfl⟩

/-- Settles O59. -/
theorem powerOnResetGivesTheListedValues : Obligations.PowerOnResetGivesTheListedValues := by
  refine ⟨fun s ts => ⟨fun hsched => ?both, fun hsched => ?one⟩, fun _ => mailbox_of_afterPowerOn⟩
  case both =>
    exact ⟨_, Turns.step_of_quiet (t := powerOnReset { s with sched := ts }) (by rw [fetch, hsched]; rfl),
      afterPowerOn_powerOnReset _, rfl, rfl, rfl, rfl⟩
  case one =>
    obtain hsched | hsched := hsched <;> exact Turns.step_of_bad (by rw [fetch, hsched]; rfl)

end Sys2Proof.PowerOn
end

section
/-! Runs of turns: a frame from P's port to the apply engine (45_dispatch_apply.md sections 1 and 2, 40_mailbox.md
rule R126). -/

namespace Sys2Proof.FrameRun

open Sys2Proof Sys2Proof.Machine Sys2Proof.Arrival

theorem run_add_of_next {s t : State} {k : Nat} (n : Nat) (h : core.run k s = .next t) :
    core.run (k + n) s = core.run n t := by
  induction k generalizing s with
  | zero =>
    cases h
    rw [Nat.zero_add]
  | succ k ih =>
    obtain ⟨u, hstep⟩ : ∃ u, step s = .next u := by
      cases hs : core.step s with
      | next u => exact ⟨u, hs⟩
      | fault r => simp [Host.Core.run, hs] at h
      | refused r => simp [Host.Core.run, hs] at h
    rw [run_succ_of_next k hstep] at h
    rw [Nat.succ_add, run_succ_of_next _ hstep, ih h]

/-- Agent P in the ARRIVE of a new frame, the operations `todo` and the turns `ts` left (`step_of_new`). -/
def takingNew (s : State) (e : Entry) (rs : List Request) (todo : List Instr) (ts : List Turn) : State :=
  { s with
    sched := ts, pIn := rs, pStage := e, pReply := none, pTodo := todo, prevId := e.hdr.messageId
    readsInfo := hasFpga e.hdr.fpgaFlags s.cfg.fpgaReadsFpgaInfo }

/-- The entry of such a frame pushed, with room in the mailbox (`step_takingNew`). -/
def pushed (s : State) (e : Entry) (rs : List Request) (todo : List Instr) (ts : List Turn) : State :=
  { takingNew s e rs todo ts with
    slots := s.slots.set s.wrBin.toNat e s.wrBin.isLt
    wrBin := inc5 s.wrBin, wrGray := gray5 (inc5 s.wrBin), pOk := true, pTries := 0 }

/-- The end of the ARRIVE, with the acknowledgment `a`; the inputs that ACK.UPDATE may use up are arbitrary. -/
def enqueued (s : State) (e : Entry) (ts : List Turn) (rs : List Request) (a : Word) (as : List Word) (b : List BusReq)
    (d : Nat) : State :=
  { pushed s e rs [] ts with ack := a, ackOut := a, tabOld := none, answers := as, bus := b, draws := d }

section Enqueue

variable {s : State} {e : Entry} {ts : List Turn} {rs : List Request}

theorem step_of_new (hsched : s.sched = .p :: ts) (hpend : s.pPending = []) (htodo : s.pTodo = [])
    (hin : s.pIn = .frame (encodeEntry e) :: rs) (hbody : e.body.length = s.cfg.n)
    (hnew : e.hdr.messageId ≠ s.prevId) :
    step s = .next (takingNew s e rs [commandOf s.cfg e.hdr, .ackUpdate] ts) :=
  (step_of_frame hsched hpend htodo hin hbody).trans
    (congrArg _ (arriveFrame_of_new (s := { s with sched := ts, pIn := rs }) hnew))

theorem step_takingNew (hroom : fullP s = false) (hpend : s.pPending = []) (is : List Instr) :
    step (takingNew s e rs (.fEnqueue :: is) (.p :: ts)) = .next (pushed s e rs is ts) :=
  step_of_pTodo (s := takingNew s e rs (.fEnqueue :: is) (.p :: ts)) rfl hpend rfl rfl
    (MailboxQueue.enqAttempt_of_room (s := { takingNew s e rs is ts with pTries := 0 }) hroom)

theorem step_pushed (hpend : s.pPending = []) :
    ∃ a as b d, step (pushed s e rs [.ackUpdate] (.p :: ts)) = .next (enqueued s e ts rs a as b d) ∧
      hiByte a = e.hdr.messageId := by
  obtain ⟨low, as, b, d, hack⟩ := updateAck_shape (pushed s e rs [] ts)
  exact ⟨_, as, b, d, step_of_pTodo (s := pushed s e rs [.ackUpdate] (.p :: ts)) rfl hpend rfl rfl (congrArg _ hack),
    hiByte_wordOf ..⟩

/-- Three turns of P: ARRIVE, F.ENQUEUE and ACK.UPDATE of a new frame, with room in the mailbox. -/
theorem run_enqueue (hroom : fullP s = false) (hsched : s.sched = .p :: .p :: .p :: ts) (hpend : s.pPending = [])
    (htodo : s.pTodo = []) (hin : s.pIn = .frame (encodeEntry e) :: rs) (hbody : e.body.length = s.cfg.n)
    (hnew : e.hdr.messageId ≠ s.prevId) (hcmd : commandOf s.cfg e.hdr = .fEnqueue) :
    ∃ a as b d, core.run 3 s = .next (enqueued s e ts rs a as b d) ∧ hiByte a = e.hdr.messageId := by
  have harrive := step_of_new hsched hpend htodo hin hbody hnew
  rw [hcmd] at harrive
  obtain ⟨a, as, b, d, hack, hid⟩ := step_pushed (s := s) (e := e) (ts := ts) (rs := rs) hpend
  refine ⟨a, as, b, d, ?_, hid⟩
  rw [run_succ_of_next 2 harrive, run_succ_of_next 1 (step_takingNew hroom hpend _), run_one_of_next hack]

end Enqueue

theorem applyCommands_ne_nil (c : Params) (h : Header) : applyCommands c h ≠ [] := by simp [applyCommands]

theorem endOfTick_of_todo {s : State} (h : s.qTodo ≠ []) : endOfTick s = s := if_neg fun hnil => h hnil.1

/-- Domain Q after a TICK that popped `e`, the device writes `ws` left to make. -/
def tickTaken (s : State) (e : Entry) (ws : List (Loc × Word)) (ts : List Turn) (qs : List Request) : State :=
  ApplyEngine.stagedTick { s with sched := ts, qIn := qs, qPending := ws } e

/-- The write of the control register that a TICK makes. -/
def flagsWrite (c : Params) (e : Entry) : Loc × Word := (.ctrl c.aCtlReg, e.hdr.fpgaFlags.zeroExtend 16)

/-- A command whose device writes are known has just these left to make. -/
theorem newWrites_bramWrites (d : Domain) (ws : List (Loc × Word)) {s u : State} (h : u.bus = s.bus) :
    newWrites s (bramWrites d ws u) = ws := newWrites_eq d s _ ws (by rw [bramWrites_bus, h])

section Tick

variable {s : State} {ts : List Turn} {qs : List Request}

theorem step_tick (hsched : s.sched = .q :: ts) (hpend : s.qPending = []) (htodo : s.qTodo = [])
    (hin : s.qIn = .tick :: qs) (hseen : emptyQ s = false) :
    step s = .next (tickTaken s (MailboxQueue.slotAt s.slots s.rdBin)
      [flagsWrite s.cfg (MailboxQueue.slotAt s.slots s.rdBin)] ts qs) := by
  have hpop : startTick { s with sched := ts, qIn := qs } =
      bramWrites .q [flagsWrite s.cfg (MailboxQueue.slotAt s.slots s.rdBin)]
        (tickTaken s (MailboxQueue.slotAt s.slots s.rdBin) s.qPending ts qs) :=
    ApplyEngine.startTick_of_entry (Mailbox.emptyQ_eq_false.1 hseen)
  rw [Turns.step_q_of_request hsched hpend htodo hin (i := .tick) rfl rfl nofun, ApplyEngine.exec_tick, hpop]
  refine congrArg Host.Outcome.next ((endOfTick_of_todo (applyCommands_ne_nil _ _)).trans ?_)
  exact congrArg (fun ws => tickTaken s (MailboxQueue.slotAt s.slots s.rdBin) ws ts qs)
    (newWrites_bramWrites .q _ (u := tickTaken s _ _ ts qs) rfl)

theorem step_tickTaken (e : Entry) (w : Loc × Word) :
    step (tickTaken s e [w] (.q :: ts) qs) = .next (bramWrite .q w.1 w.2 (tickTaken s e [] ts qs)) :=
  (Turns.step_q_of_pending (s := tickTaken s e [w] (.q :: ts) qs) rfl rfl).trans
    (congrArg _ (endOfTick_of_todo (applyCommands_ne_nil _ _)))

/-- Domain Q after a TICK that popped `e`, its register write made. -/
def ticked (s : State) (e : Entry) (ts : List Turn) (qs : List Request) : State :=
  bramWrite .q (flagsWrite s.cfg e).1 (flagsWrite s.cfg e).2 (tickTaken s e [] ts qs)

/-- Two turns of Q: TICK pops the oldest entry, and its register write goes out. -/
theorem run_tick (hsched : s.sched = .q :: .q :: ts) (hpend : s.qPending = []) (htodo : s.qTodo = [])
    (hin : s.qIn = .tick :: qs) (hseen : emptyQ s = false) :
    core.run 2 s = .next (ticked s (MailboxQueue.slotAt s.slots s.rdBin) ts qs) := by
  rw [run_succ_of_next 1 (step_tick hsched hpend htodo hin hseen), run_one_of_next (step_tickTaken _ _)]
  rfl

end Tick

/-- Domain Q sees the write cursor that `enqueued` has. -/
def crossed (s : State) : State := { s with wrGrayQ := gray5 s.wrBin, draws := s.draws + 1 }

/-- Settles O41: P enqueues the frame, the write cursor crosses, and the tick finds the frame in its slot. -/
theorem enqueuedFrameReachesTheApplyEngine : Obligations.EnqueuedFrameReachesTheApplyEngine := by
  intro s e ts rs qs hs hempty hroom hwf hsched hpPend hpTodo hpIn hqPend hqTodo hqIn hbody hnew hcmd
  obtain ⟨a, as, b, d, harrived, hid⟩ := run_enqueue hroom hsched hpPend hpTodo hpIn hbody hnew hcmd
  obtain ⟨-, -, hview⟩ := MailboxQueue.cursors_of_empty hs hempty
  have hpath : onPath (ungray5 s.wrGrayQ) (inc5 s.wrBin) (inc5 s.wrBin) = true := hview ▸ MailboxQueue.onPath_inc5 _
  have hcross : step (enqueued s e (.sw (some (s.wrBin + 1#5)) :: .q :: .q :: ts) rs a as b d) =
      .next (crossed (enqueued s e (.q :: .q :: ts) rs a as b d)) :=
    (Turns.step_sw rfl).trans
      (congrArg _ (MailboxQueue.syncWrite_named (s := enqueued s e (.q :: .q :: ts) rs a as b d) hpath))
  obtain ⟨hsees, hslot, hheld⟩ := MailboxQueue.pop_after_push (e := e)
    (u := crossed (enqueued s e (.q :: .q :: ts) rs a as b d)) hs hempty rfl rfl rfl rfl rfl
  have htick := run_tick (s := crossed (enqueued s e (.q :: .q :: ts) rs a as b d)) rfl hqPend hqTodo hqIn hsees
  rw [hslot] at htick
  refine ⟨ticked (crossed (enqueued s e (.q :: .q :: ts) rs a as b d)) e ts qs, ?_, rfl, rfl, rfl, rfl, rfl, ?_, rfl,
    hid, rfl, ?_, rfl, rfl, rfl, rfl, rfl⟩
  · rw [run_add_of_next 3 harrived, run_succ_of_next 2 hcross, htick]
  · rw [← hheld, MailboxQueue.popEntry_of_seen hsees]
    rfl
  · exact RingWriter.ctrlReg_bramWrite_same .q _ _ hwf

end Sys2Proof.FrameRun
end

section
/-! Commands whose device writes go out one at a time: what such a command leaves to later turns, and that the turns of one
domain alone make up its whole meaning (20_memory.md rules R67 and R80, 45_dispatch_apply.md rules R240, R254 and R258). -/

namespace Sys2Proof.Drain

open Sys2Proof Sys2Proof.Machine Sys2Proof.Arrival

/-! ## No command looks at the schedule -/

/-- The block with another schedule. -/
def resched (ts : List Turn) (s : State) : State := { s with sched := ts }

/-- An outcome with another schedule. -/
def reschedNext (ts : List Turn) (o : Result) : Result := onNext o fun u => .next (resched ts u)

section Resched

variable {ts : List Turn} {s : State}

theorem bramWrites_resched (d : Domain) (ws : List (Loc × Word)) :
    bramWrites d ws (resched ts s) = resched ts (bramWrites d ws s) := by
  induction ws generalizing s with
  | nil => rfl
  | cons w ws ih => exact ih (s := bramWrite d w.1 w.2 s)

theorem setCycle_resched (ch : Channel) (c : Count) : ch.setCycle c (resched ts s) = resched ts (ch.setCycle c s) := by
  cases ch <;> rfl

theorem cfg_resched : (resched ts s).cfg = s.cfg := rfl

theorem cycle_resched (ch : Channel) : ch.cycle (resched ts s) = ch.cycle s := by cases ch <;> rfl

theorem segBegin_resched (ch : Channel) : segBegin ch (resched ts s) = resched ts (segBegin ch s) := by
  cases ch <;> rfl

theorem segEnd_resched (ch : Channel) : segEnd ch (resched ts s) = resched ts (segEnd ch s) := by
  cases ch <;> rfl

theorem segWrite_resched (ch : Channel) (n : BitVec 16) (src : List Word) :
    segWrite ch n src (resched ts s) = reschedNext ts (segWrite ch n src s) := by
  simp only [segWrite, cycle_resched]
  split_ifs
  · rfl
  · rfl
  · rfl
  · simp only [RingWriter.writeUnits_eq, RingWriter.lazyRebase_eq, cycle_resched, cfg_resched, bramWrites_resched,
      setCycle_resched]
    rfl

theorem eagerRebase_resched : eagerRebase (resched ts s) = resched ts (eagerRebase s) := by
  simp only [GainSlots.eagerRebase_eq]
  exact bramWrites_resched ..

theorem segWriteGain_resched (m : BitVec 16) (passes : List Pass) :
    segWriteGain m passes (resched ts s) = reschedNext ts (segWriteGain m passes s) := by
  unfold segWriteGain
  split_ifs
  · rfl
  · rw [bramWrites_resched, show (resched ts s).stmCycle = s.stmCycle from rfl, setCycle_resched, eagerRebase_resched]
    rfl

theorem onNext_reschedNext {o : Result} {f g : State → Result} (h : ∀ u, f (resched ts u) = reschedNext ts (g u)) :
    onNext (reschedNext ts o) f = reschedNext ts (onNext o g) := by
  cases o with
  | next u => exact h u
  | fault r => rfl
  | refused r => rfl

/-- The end of a command that closes the stream where a flag of its frame says so. -/
def endIf (ch : Channel) (c : Bool) (u : State) : Result := .next (if c then segEnd ch u else u)

theorem endIf_resched (ch : Channel) (c : Bool) (u : State) :
    endIf ch c (resched ts u) = reschedNext ts (endIf ch c u) := by
  rw [endIf, segEnd_resched]
  cases c <;> rfl

theorem beginIf_resched {c : Bool} {f : State → State} (hf : f (resched ts s) = resched ts (f s)) (d : Nat) :
    { (if c then f (resched ts s) else resched ts s) with draws := d } =
      resched ts { (if c then f s else s) with draws := d } := by
  rw [hf]
  split <;> rfl

theorem execAWriteMod_resched : execAWriteMod (resched ts s) = reschedNext ts (execAWriteMod s) := by
  have hbegin : beginMod (resched ts s) = resched ts (beginMod s) := by
    unfold beginMod
    rw [segBegin_resched]
    exact bramWrites_resched ..
  have hbegun := beginIf_resched (c := qHas s s.cfg.cpuModBegin) hbegin (s.draws + 1)
  refine Eq.trans ?_ (onNext_reschedNext (endIf_resched .mod (qHas s s.cfg.cpuModEnd)))
  rw [← segWrite_resched, ← hbegun]
  rfl

theorem execAPointStm_resched : execAPointStm (resched ts s) = reschedNext ts (execAPointStm s) := by
  have hbegin : beginPoint (resched ts s) = resched ts (beginPoint s) := by
    unfold beginPoint
    rw [segBegin_resched]
    exact bramWrites_resched ..
  have hbegun := beginIf_resched (c := qHas s s.cfg.cpuStmBegin) hbegin (s.draws + 1)
  refine Eq.trans ?_ (onNext_reschedNext (endIf_resched .pstm (qHas s s.cfg.cpuStmEnd)))
  rw [← segWrite_resched, ← hbegun]
  rfl

theorem beginGain_resched : beginGain (resched ts s) = resched ts (beginGain s) := by
  unfold beginGain
  rw [segBegin_resched]
  exact congrArg (fun u : State => { u with gainMode := bodyWord s.qStage.body s.draws 2, draws := s.draws + 1 })
    (bramWrites_resched ..)

theorem gainBody_resched : gainBody (resched ts s) = reschedNext ts (gainBody s) :=
  segWriteGain_resched (s := latchPasses (gainModeOf s.cfg s.gainMode) s) ..

theorem execAGainStm_resched : execAGainStm (resched ts s) = reschedNext ts (execAGainStm s) := by
  refine Eq.trans ?_ (onNext_reschedNext (endIf_resched .gstm (qHas s s.cfg.cpuStmEnd)))
  unfold execAGainStm
  rw [beginGain_resched, gainBody_resched, show qHas (resched ts s) (resched ts s).cfg.cpuStmBegin =
    qHas s s.cfg.cpuStmBegin from rfl]
  split <;> rfl

/-- A command of an apply does not look at the turns that follow. -/
theorem exec_resched {i : Instr} (hi : leftOfTick i = true) : exec i (resched ts s) = reschedNext ts (exec i s) := by
  cases i with
  | aWriteMod => exact execAWriteMod_resched
  | aConfigSilencer => exact congrArg Host.Outcome.next (bramWrites_resched ..)
  | aHeaderOnly => rfl
  | aModDelay =>
    exact congrArg (fun u : State => Host.Outcome.next { u with draws := s.draws + 1 }) (bramWrites_resched ..)
  | aDrive => exact congrArg Host.Outcome.next (bramWrites_resched ..)
  | aPointStm => exact execAPointStm_resched
  | aGainStm => exact execAGainStm_resched
  | _ => cases hi

theorem exec_fSynchronize_resched : exec .fSynchronize (resched ts s) = reschedNext ts (exec .fSynchronize s) := by
  have hwrites := bramWrites_resched (ts := ts) (s := s) .p (syncWrites s.cfg s.pStage s.draws)
  exact congrArg
    (fun u : State => (.next
      { u with
        cycleTab := bodyWords s.cfg s.pStage.body s.draws, tabOld := some s.cycleTab, draws := s.draws + 1 } : Result))
    hwrites

end Resched

/-! ## What a command does to the device is a list of writes -/

/-- From `s` to `t` the device has taken the writes `ws` of domain `d`, and nothing else. -/
structure Wrote (d : Domain) (ws : List (Loc × Word)) (s t : State) : Prop where
  mem : t.mem = (bramWrites d ws s).mem
  bus : t.bus = (bramWrites d ws s).bus
  cfg : t.cfg = s.cfg

section Wrote

variable {d : Domain} {s t u : State}

theorem wrote_bramWrites (d : Domain) (ws : List (Loc × Word)) (s : State) : Wrote d ws s (bramWrites d ws s) :=
  ⟨rfl, rfl, bramWrites_cfg ..⟩

theorem Wrote.trans {ws vs : List (Loc × Word)} (hst : Wrote d ws s t) (htu : Wrote d vs t u) :
    Wrote d (ws ++ vs) s u := by
  have hcfg : t.cfg = (bramWrites d ws s).cfg := by rw [hst.cfg, bramWrites_cfg]
  refine ⟨?_, ?_, htu.cfg.trans hst.cfg⟩
  · rw [htu.mem, bramWrites_append, bramWrites_mem_domain d d vs _ _ hcfg hst.mem]
  · rw [htu.bus, bramWrites_append, bramWrites_bus, bramWrites_bus, hst.bus]

/-- What an operation does beside the device does not count. -/
theorem Wrote.of_eq {ws : List (Loc × Word)} (h : Wrote d ws s t) (hmem : u.mem = t.mem) (hbus : u.bus = t.bus)
    (hcfg : u.cfg = t.cfg) : Wrote d ws s u := ⟨hmem.trans h.mem, hbus.trans h.bus, hcfg.trans h.cfg⟩

/-- Nor does what it did before. -/
theorem Wrote.from_eq {ws : List (Loc × Word)} (h : Wrote d ws s t) (hmem : s.mem = u.mem) (hbus : s.bus = u.bus)
    (hcfg : s.cfg = u.cfg) : Wrote d ws u t := by
  refine ⟨h.mem.trans (bramWrites_mem_domain d d ws s u hcfg hmem), ?_, h.cfg.trans hcfg⟩
  rw [h.bus, bramWrites_bus, bramWrites_bus, hbus]

theorem Wrote.wf {ws : List (Loc × Word)} (h : Wrote d ws s t) (hs : s.mem.wf = true) : t.mem.wf = true :=
  h.mem ▸ bramWrites_wf d ws s hs

theorem Wrote.newWrites {ws : List (Loc × Word)} (h : Wrote d ws s t) : newWrites s t = ws :=
  newWrites_eq d s t ws (h.bus.trans (bramWrites_bus d ws s))

end Wrote

section Commands

variable {s t : State}

theorem wrote_segBegin (ch : Channel) (s : State) : Wrote .q [(.ctrl (ch.baseReg s.cfg), 0#16)] s (segBegin ch s) := by
  cases ch <;> exact ⟨rfl, rfl, rfl⟩

theorem wrote_segEnd (ch : Channel) (s : State) :
    Wrote .q [(.ctrl (ch.lenReg s.cfg), lengthOf (ch.cycle s))] s (segEnd ch s) := ⟨rfl, rfl, rfl⟩

theorem Wrote.counted {ws : List (Loc × Word)} (h : Wrote .q ws s t) (ch : Channel) (c : Count) :
    Wrote .q ws s (writerDone (ch.setCycle c t)) := by
  cases ch <;> exact h.of_eq rfl rfl rfl

theorem wrote_segWrite {ch : Channel} {n : BitVec 16} {src : List Word} (h : segWrite ch n src s = .next t) :
    ∃ ws, Wrote .q ws s t := by
  obtain ⟨hroom, ⟨-, rfl⟩ | ⟨hn, heven, -⟩⟩ := (segWrite_next ch n src s t).1 h
  · exact ⟨[], rfl, rfl, rfl⟩
  · rw [RingWriter.segWrite_of_listed ch n src s hroom hn heven] at h
    cases h
    exact ⟨_, (wrote_bramWrites .q _ s).counted ch _⟩

theorem wrote_segWriteGain {m : BitVec 16} {passes : List Pass} (h : segWriteGain m passes s = .next t) :
    ∃ ws, Wrote .q ws s t := by
  obtain ⟨-, rfl⟩ := (segWriteGain_next m passes s t).1 h
  rw [GainSlots.eagerRebase_eq]
  have hslots : Wrote .q (slotWrites s.stmCycle (passes.take m.toNat)) s
      (Channel.gstm.setCycle (s.stmCycle + m.zeroExtend 32)
        (bramWrites .q (slotWrites s.stmCycle (passes.take m.toNat)) s)) :=
    (wrote_bramWrites ..).of_eq rfl rfl rfl
  exact ⟨_, hslots.trans ((wrote_bramWrites .q _ _).of_eq rfl rfl rfl)⟩

/-- The head of a frame, if it has one, then its samples, then the end of the stream, if it has one. -/
theorem wrote_endIf {ws : List (Loc × Word)} {ch : Channel} {u : State} (c : Bool) (h : Wrote .q ws s u) :
    ∃ vs, Wrote .q vs s (if c then segEnd ch u else u) := by
  cases c with
  | false => exact ⟨ws, h⟩
  | true => exact ⟨_, h.trans (wrote_segEnd ch u)⟩

theorem wrote_beginIf {f : State → State} {ws : List (Loc × Word)} (c : Bool) (d : Nat) (h : Wrote .q ws s (f s)) :
    ∃ vs, Wrote .q vs s { (if c then f s else s) with draws := d } := by
  cases c with
  | false => exact ⟨[], rfl, rfl, rfl⟩
  | true => exact ⟨ws, h.of_eq rfl rfl rfl⟩

theorem wrote_execAWriteMod (h : execAWriteMod s = .next t) : ∃ ws, Wrote .q ws s t := by
  obtain ⟨u, hwrite, hend⟩ := (onNext_eq_next _ _ _).1 h
  cases hend
  obtain ⟨vs, hbegin⟩ := wrote_beginIf (f := beginMod) (qHas s s.cfg.cpuModBegin) (s.draws + 1)
    ((wrote_segBegin .mod s).trans (wrote_bramWrites .q _ _))
  obtain ⟨ws, hput⟩ := wrote_segWrite hwrite
  exact wrote_endIf _ (hbegin.trans hput)

theorem wrote_execAPointStm (h : execAPointStm s = .next t) : ∃ ws, Wrote .q ws s t := by
  obtain ⟨u, hwrite, hend⟩ := (onNext_eq_next _ _ _).1 h
  cases hend
  obtain ⟨vs, hbegin⟩ := wrote_beginIf (f := beginPoint) (qHas s s.cfg.cpuStmBegin) (s.draws + 1)
    ((wrote_segBegin .pstm s).trans (wrote_bramWrites .q _ _))
  obtain ⟨ws, hput⟩ := wrote_segWrite hwrite
  exact wrote_endIf _ (hbegin.trans hput)

theorem wrote_beginGain (s : State) : ∃ ws, Wrote .q ws s (beginGain s) :=
  ⟨_, ((wrote_segBegin .gstm s).trans (wrote_bramWrites .q _ _)).of_eq rfl rfl rfl⟩

theorem wrote_gainBody (h : gainBody s = .next t) : ∃ ws, Wrote .q ws s t := by
  obtain ⟨ws, hput⟩ := wrote_segWriteGain h
  exact ⟨ws, hput.from_eq rfl rfl rfl⟩

theorem wrote_execAGainStm (h : execAGainStm s = .next t) : ∃ ws, Wrote .q ws s t := by
  obtain ⟨u, hframe, hend⟩ := (onNext_eq_next _ _ _).1 h
  cases hend
  obtain ⟨ws, hput⟩ : ∃ ws, Wrote .q ws s u := by
    split_ifs at hframe
    · cases hframe
      exact wrote_beginGain s
    · exact wrote_gainBody hframe
  exact wrote_endIf _ hput

/-- A command of an apply does nothing to the device but writes of domain Q. -/
theorem exec_wrote {i : Instr} (hi : leftOfTick i = true) (h : exec i s = .next t) : ∃ ws, Wrote .q ws s t := by
  cases i with
  | aWriteMod => exact wrote_execAWriteMod h
  | aConfigSilencer =>
    cases h
    exact ⟨_, wrote_bramWrites .q _ s⟩
  | aHeaderOnly =>
    cases h
    exact ⟨[], rfl, rfl, rfl⟩
  | aModDelay =>
    cases h
    exact ⟨_, (wrote_bramWrites .q _ s).of_eq rfl rfl rfl⟩
  | aDrive =>
    cases h
    exact ⟨_, wrote_bramWrites .q _ s⟩
  | aPointStm => exact wrote_execAPointStm h
  | aGainStm => exact wrote_execAGainStm h
  | _ => cases hi

theorem exec_fSynchronize_wrote (h : exec .fSynchronize s = .next t) : ∃ ws, Wrote .p ws s t := by
  cases h
  exact ⟨_, (wrote_bramWrites .p _ s).of_eq rfl rfl rfl⟩

end Commands

/-! ## The turns of one domain alone -/

section Turns

variable {s u : State} {ts : List Turn}

theorem endOfTick_resched (s : State) : endOfTick (resched ts s) = resched ts (endOfTick s) := by
  simp only [Turns.endOfTick_eq]
  rfl

/-- Turns of Q alone make the writes that are due, in order; the last one ends the TICK if no command is left. -/
theorem run_qPending (ws : List (Loc × Word)) (s : State) :
    core.run ws.length (endOfTick { s with sched := List.replicate ws.length .q ++ ts, qPending := ws }) =
      .next (endOfTick { bramWrites .q ws s with sched := ts, qPending := [] }) := by
  induction ws generalizing s with
  | nil => rfl
  | cons w ws ih =>
    have hdue : endOfTick { s with sched := List.replicate (ws.length + 1) .q ++ ts, qPending := w :: ws } =
        { s with sched := .q :: (List.replicate ws.length .q ++ ts), qPending := w :: ws } :=
      if_neg fun h => nomatch h.2
    rw [List.length_cons, hdue, run_succ_of_next _ (Turns.step_q_of_pending rfl rfl)]
    exact ih (bramWrite .q w.1 w.2 s)

theorem run_pPending (ws : List (Loc × Word)) (s : State) :
    core.run ws.length { s with sched := List.replicate ws.length .p ++ ts, pPending := ws } =
      .next { bramWrites .p ws s with sched := ts, pPending := [] } := by
  induction ws generalizing s with
  | nil => rfl
  | cons w ws ih =>
    rw [List.length_cons, run_succ_of_next _ (Turns.step_p_of_pending (ts := List.replicate ws.length .p ++ ts) rfl rfl)]
    exact ih (bramWrite .p w.1 w.2 s)

/-- What a command has left to later turns, made up in its place. -/
theorem bramWrites_of_wrote {d : Domain} {ws : List (Loc × Word)} (h : Wrote d ws s u) :
    bramWrites d ws { u with mem := s.mem, bus := s.bus } = u := by
  have hmem : (bramWrites d ws { u with mem := s.mem, bus := s.bus }).mem = u.mem :=
    (bramWrites_mem_domain d d ws { u with mem := s.mem, bus := s.bus } s h.cfg rfl).trans h.mem.symm
  have hbus : (bramWrites d ws { u with mem := s.mem, bus := s.bus }).bus = u.bus := by
    rw [h.bus, bramWrites_bus, bramWrites_bus]
  rw [bramWrites_eq, hmem, hbus]

theorem run_succ_of_fault {r : Fault} (k : Nat) (h : step s = .fault r) : core.run (k + 1) s = .fault r := by
  have hstep : core.step s = .fault r := h
  simp only [Host.Core.run, hstep]

theorem exec_keepsInputs {i : Instr} {v : State} (h : exec i s = .next v) : Frames.KeepsInputs s v := by
  obtain ⟨-, -, -, -, -, -, -, -, -, -, hkeep⟩ := Frames.domainsKeepToTheirState i s v h
  exact hkeep

/-- The turn in which a command of an apply runs: its device writes are left to make. -/
theorem step_of_command {i : Instr} {is : List Instr} {ws : List (Loc × Word)} (hi : leftOfTick i = true)
    (hsched : s.sched = .q :: ts) (hpend : s.qPending = []) (htodo : s.qTodo = i :: is)
    (hexec : exec i { s with sched := ts, qTodo := is } = .next u) (hws : Wrote .q ws s u) :
    step s = .next (endOfTick { u with mem := s.mem, bus := s.bus, qPending := ws }) := by
  have hinter : interleaves i = true := by simp [interleaves, hi]
  rw [Turns.step_q_of_todo hsched hpend htodo, hexec]
  simp only [onNext, hinter, if_true, hws.newWrites]

/-- The turn in which F.SYNCHRONIZE runs. -/
theorem step_of_synchronize {is : List Instr} {ws : List (Loc × Word)} (hsched : s.sched = .p :: ts)
    (hpend : s.pPending = []) (htodo : s.pTodo = .fSynchronize :: is)
    (hexec : exec .fSynchronize { s with sched := ts, pTodo := is } = .next u) (hws : Wrote .p ws s u) :
    step s = .next { u with mem := s.mem, bus := s.bus, pPending := ws } := by
  have hinter : interleaves .fSynchronize = true := rfl
  rw [Turns.step_p_of_todo hsched hpend htodo, hexec]
  simp only [onNext, hinter, if_true, hws.newWrites]

/-- The schedule does not count either. -/
theorem Wrote.resched {d : Domain} {ws : List (Loc × Word)} (h : Wrote d ws s u) (ts' : List Turn) :
    Wrote d ws (resched ts s) (resched ts' u) :=
  (h.of_eq (u := Drain.resched ts' u) rfl rfl rfl).from_eq rfl rfl rfl

/-- A command of an apply and the writes it leaves, in turns of Q alone: all of the command's meaning. -/
theorem run_command {i : Instr} {is : List Instr} (hi : leftOfTick i = true) (hpend : s.qPending = [])
    (htodo : s.qTodo = i :: is) (hexec : exec i { s with sched := ts, qTodo := is } = .next u) :
    ∃ k, ∀ ts', core.run (k + 1) { s with sched := List.replicate (k + 1) .q ++ ts' } =
      .next (endOfTick (resched ts' u)) := by
  obtain ⟨ws, hwrote⟩ := exec_wrote hi hexec
  have hws : Wrote .q ws s u := hwrote.from_eq rfl rfl rfl
  have hnone : u.qPending = [] := (exec_keepsInputs hexec).2.1.trans hpend
  refine ⟨ws.length, fun ts' => ?_⟩
  have hlater : exec i { s with sched := List.replicate ws.length .q ++ ts', qTodo := is } =
      .next (resched (List.replicate ws.length .q ++ ts') u) :=
    (exec_resched (s := { s with sched := ts, qTodo := is }) hi).trans (congrArg (reschedNext _) hexec)
  have hstep := step_of_command (s := resched (List.replicate (ws.length + 1) .q ++ ts') s) hi rfl hpend htodo hlater
    (hws.resched _)
  refine (run_succ_of_next _ hstep).trans ?_
  refine (run_qPending ws { u with mem := s.mem, bus := s.bus }).trans ?_
  rw [bramWrites_of_wrote hws, ← hnone]
  rfl

/-- So does F.SYNCHRONIZE in turns of P alone. -/
theorem run_synchronize {is : List Instr} (hpend : s.pPending = []) (htodo : s.pTodo = .fSynchronize :: is)
    (hexec : exec .fSynchronize { s with sched := ts, pTodo := is } = .next u) :
    ∃ k, core.run (k + 1) { s with sched := List.replicate (k + 1) .p ++ ts } = .next u := by
  obtain ⟨ws, hwrote⟩ := exec_fSynchronize_wrote hexec
  have hws : Wrote .p ws s u := hwrote.from_eq rfl rfl rfl
  obtain ⟨hp, -, -, hsched, -⟩ := exec_keepsInputs hexec
  refine ⟨ws.length, ?_⟩
  have hlater : exec .fSynchronize { s with sched := List.replicate ws.length .p ++ ts, pTodo := is } =
      .next (resched (List.replicate ws.length .p ++ ts) u) :=
    (exec_fSynchronize_resched (s := { s with sched := ts, pTodo := is })).trans (congrArg (reschedNext _) hexec)
  have hstep := step_of_synchronize (s := resched (List.replicate (ws.length + 1) .p ++ ts) s) rfl hpend htodo hlater
    (hws.resched _)
  refine (run_succ_of_next _ hstep).trans ?_
  refine (run_pPending ws { u with mem := s.mem, bus := s.bus }).trans ?_
  rw [bramWrites_of_wrote hws]
  have hkeep : u.pPending = [] := hp.trans hpend
  rw [← hkeep, ← show u.sched = ts from hsched]

end Turns

/-! ## Writes of two domains -/

section Pair

variable {s : State} {ts : List Turn} {l l' : Loc} {v v' : Word} {ws ws' : List (Loc × Word)}

/-- Both requests are made, in the order of the turns, and the later write stays. -/
theorem run_p_q (hp : s.pPending = (l, v) :: ws) (hq : s.qPending = (l', v') :: ws') :
    ∃ t, core.run 2 { s with sched := .p :: .q :: ts } = .next t ∧ t.pPending = ws ∧ t.qPending = ws' ∧
      newRequests s t = [.write .p l v, .write .q l' v'] ∧
      (∀ a, s.mem.wf = true → l = .ctrl a → l' = .ctrl a → t.ctrlReg a = v') := by
  have hfirst := Turns.step_p_of_pending (s := { s with sched := .p :: .q :: ts }) rfl hp
  have hsecond := Turns.step_q_of_pending (s := bramWrite .p l v { s with sched := .q :: ts, pPending := ws }) rfl hq
  rw [Turns.endOfTick_eq] at hsecond
  refine ⟨_, (run_succ_of_next 1 hfirst).trans (run_one_of_next hsecond), rfl, rfl,
    newRequests_eq _ _ _ rfl, ?_⟩
  rintro a hwf rfl rfl
  exact RingWriter.ctrlReg_bramWrite_same .q _ _ (bramWrite_wf .p _ _ _ hwf)

theorem run_q_p (hp : s.pPending = (l, v) :: ws) (hq : s.qPending = (l', v') :: ws') :
    ∃ t, core.run 2 { s with sched := .q :: .p :: ts } = .next t ∧ t.pPending = ws ∧ t.qPending = ws' ∧
      newRequests s t = [.write .q l' v', .write .p l v] ∧
      (∀ a, s.mem.wf = true → l = .ctrl a → l' = .ctrl a → t.ctrlReg a = v) := by
  have hfirst := Turns.step_q_of_pending (s := { s with sched := .q :: .p :: ts }) rfl hq
  rw [Turns.endOfTick_eq] at hfirst
  refine ⟨_, (run_succ_of_next 1 hfirst).trans (run_one_of_next (Turns.step_p_of_pending rfl hp)), rfl, rfl,
    newRequests_eq _ _ _ rfl, ?_⟩
  rintro a hwf rfl rfl
  exact RingWriter.ctrlReg_bramWrite_same .p _ _ (bramWrite_wf .q _ _ _ hwf)

end Pair

/-- Settles O6: the two orders of two writes; a command's writes, made up in turns of its domain. -/
theorem commandWritesGoOutOneByOne : Obligations.CommandWritesGoOutOneByOne := by
  refine ⟨fun s ts l l' v v' ws ws' hp hq => ⟨run_p_q hp hq, run_q_p hp hq⟩, fun s u ts i is hi hpend htodo hexec => ?_,
    fun s u ts is hpend htodo hexec => run_synchronize hpend htodo hexec⟩
  obtain ⟨k, hk⟩ := run_command hi hpend htodo hexec
  obtain ⟨-, -, -, hsched, -⟩ := exec_keepsInputs hexec
  refine ⟨k, (hk ts).trans ?_⟩
  rw [← show u.sched = ts from hsched]
  rfl

/-! ## A TICK ends -/

/-- Turns of Q alone end the TICK in progress, or meet a fault mark. -/
def EndsTick (ts : List Turn) (s : State) : Prop :=
  ∃ k, (∃ r, core.run k (resched (List.replicate k .q ++ ts) s) = .fault r) ∨
    ∃ t, core.run k (resched (List.replicate k .q ++ ts) s) = .next t ∧
      t.qTodo = [] ∧ t.qPending = [] ∧ t.qBusy = false ∧ t.sched = ts

section Ends

variable {s u : State} {ts : List Turn}

theorem endsTick_of_run (k : Nat)
    (hrun : ∀ ts', core.run k (resched (List.replicate k .q ++ ts') s) = .next (resched ts' u)) (h : EndsTick ts u) :
    EndsTick ts s := by
  obtain ⟨m, hm⟩ := h
  have hsum : core.run (k + m) (resched (List.replicate (k + m) .q ++ ts) s) =
      core.run m (resched (List.replicate m .q ++ ts) u) := by
    rw [List.replicate_add, List.append_assoc]
    exact FrameRun.run_add_of_next m (hrun _)
  exact ⟨k + m, hsum ▸ hm⟩

theorem endsTick_of_todo (is : List Instr) (hleft : ∀ i ∈ is, leftOfTick i = true) (htodo : s.qTodo = is)
    (hpend : s.qPending = []) : EndsTick ts (endOfTick s) := by
  induction is generalizing s with
  | nil =>
    have hend : endOfTick s = { s with qBusy := false } := if_pos ⟨htodo, hpend⟩
    rw [hend]
    exact ⟨0, .inr ⟨_, rfl, htodo, hpend, rfl, rfl⟩⟩
  | cons i is ih =>
    obtain ⟨hi, his⟩ := List.forall_mem_cons.1 hleft
    rw [FrameRun.endOfTick_of_todo (by simp [htodo])]
    cases hexec : exec i { s with sched := ts, qTodo := is } with
    | refused r => exact absurd hexec (Stops.exec_not_refused i _ r)
    | fault r =>
      refine ⟨1, .inl ⟨r, run_succ_of_fault 0 ?_⟩⟩
      exact (Turns.step_q_of_todo (s := resched (.q :: ts) s) rfl hpend htodo).trans (congrArg (onNext · _) hexec)
    | next u =>
      obtain ⟨k, hk⟩ := run_command hi hpend htodo hexec
      obtain ⟨htodo', -, hpend'⟩ := Activities.exec_sameTick (by rintro rfl; cases hi) hexec
      refine endsTick_of_run (k + 1) (fun ts' => (hk ts').trans ?_) (ih his htodo' (hpend'.trans hpend))
      rw [endOfTick_resched]

end Ends

/-- Settles O43: the writes that are due go out, then the commands left run, each with its writes. -/
theorem tickAlwaysEnds : Obligations.TickAlwaysEnds := by
  intro s ts hs
  obtain ⟨-, ⟨hleft, -⟩, hbusy⟩ := (Activities.activityInv_iff s).1 hs
  have hend : endOfTick s = s := by
    rw [Turns.endOfTick_eq]
    split
    next hnone =>
      have hidle : s.qBusy = false := Bool.eq_false_iff.2 fun h => by simpa [hnone] using hbusy.1 h
      rw [← hidle]
    next => rfl
  have hends := endsTick_of_todo (s := { bramWrites .q s.qPending s with qPending := [] }) (ts := ts) s.qTodo hleft
    (bramWrites_qTodo ..) rfl
  refine endsTick_of_run s.qPending.length (fun ts' => ?_) hends
  have hfirst (x : List Turn) : resched x s = endOfTick (resched x s) := by rw [endOfTick_resched, hend]
  rw [← endOfTick_resched, hfirst]
  exact run_qPending s.qPending s

end Sys2Proof.Drain
end

section
/-! SEG.WRITE and its segment-base register: when the register is written, and that a run of units makes the same writes
however it is cut into two (41_ring_writer.md rules R155, R156, R162 and R163). -/

namespace Sys2Proof.WriterRuns

open Sys2Proof Sys2Proof.Machine Sys2Proof.RingWriter Sys2Proof.DeviceWrites

/-! ## The writes to the segment-base register (rule R156) -/

theorem copyTo_region {l : Loc} (hl : regionCode l ≠ 0) (src : List Word) : ∀ w ∈ copyTo l src, regionCode w.1 ≠ 0 := by
  induction src generalizing l with
  | nil => nofun
  | cons v vs ih =>
    have hnext : regionCode l.next = regionCode l := by cases l <;> rfl
    exact List.forall_mem_cons.2 ⟨hl, ih (hnext ▸ hl)⟩

theorem pointWrites_region (wa : WinAddr) (m : Nat) (src : List Word) :
    ∀ w ∈ pointWrites wa m src, regionCode w.1 ≠ 0 := by
  induction m generalizing wa src with
  | zero => nofun
  | succ m ih =>
    exact List.forall_mem_append.2 ⟨copyTo_region (l := .stmt wa) (Nat.succ_ne_zero 2) _, ih _ _⟩

/-- Units lie in the tables, outside region `CTRL`. -/
theorem putUnits_region (ch : Channel) (off m : Nat) (src : List Word) :
    ∀ w ∈ putUnits ch off m src, regionCode w.1 ≠ 0 := by
  cases ch with
  | mod => exact copyTo_region (l := .modt _) (Nat.succ_ne_zero 0) _
  | pstm => exact pointWrites_region _ _ _
  | gstm => nofun

/-- A list of device writes of domain Q as requests. -/
def asRequests (ws : List (Loc × Word)) : List BusReq := ws.map fun w => .write .q w.1 w.2

theorem asRequests_append (ws vs : List (Loc × Word)) : asRequests (ws ++ vs) = asRequests ws ++ asRequests vs :=
  List.map_append

theorem not_isBaseWrite {ch : Channel} {c : Params} {l : Loc} (v : Word) (hl : regionCode l ≠ 0) :
    isBaseWrite ch c (.write .q l v) = false := by
  cases l with
  | ctrl a => exact absurd rfl hl
  | modt wa | drvt a | stmt wa => rfl

theorem filter_putUnits (ch : Channel) (c : Params) (off m : Nat) (src : List Word) :
    (asRequests (putUnits ch off m src)).filter (isBaseWrite ch c) = [] := by
  rw [List.filter_eq_nil_iff]
  intro r hr
  obtain ⟨w, hw, rfl⟩ := List.mem_map.1 hr
  exact Bool.eq_false_iff.1 (not_isBaseWrite w.2 (putUnits_region ch off m src w hw))

theorem filter_baseReg (ch : Channel) (c : Params) (v : Word) :
    (asRequests [(.ctrl (ch.baseReg c), v)]).filter (isBaseWrite ch c) = [.write .q (.ctrl (ch.baseReg c)) v] := by
  simp [asRequests, isBaseWrite]

theorem filter_rebaseWrites (ch : Channel) (c : Params) (cycle : Count) :
    (asRequests (rebaseWrites ch c cycle)).filter (isBaseWrite ch c) =
      if cycle.toNat % ch.size = 0 ∧ cycle ≠ 0#32 then
        [.write .q (.ctrl (ch.baseReg c)) (BitVec.ofNat 16 (cycle.toNat / ch.size))] else [] := by
  rw [rebaseWrites_eq]
  split
  · exact filter_baseReg ..
  · rfl

theorem filter_armWrites (ch : Channel) (c : Params) (cycle : Count) (m : Nat) (src : List Word) :
    (asRequests (armWrites ch c cycle m src)).filter (isBaseWrite ch c) =
      if ch.size - cycle.toNat % ch.size < m then
        [.write .q (.ctrl (ch.baseReg c)) (BitVec.ofNat 16 ((cycle.toNat / ch.size + 1) % 2 ^ (32 - ch.k)))] else [] := by
  rw [← cap_eq]
  by_cases hfits : m ≤ ch.cap cycle
  · rw [if_neg (Nat.not_lt.2 hfits), armWrites_of_fits c src hfits, filter_putUnits]
  · rw [if_pos (Nat.not_le.1 hfits), armWrites_of_straddle c src hfits, asRequests_append, asRequests_append,
      List.filter_append, List.filter_append, filter_putUnits, filter_putUnits, filter_baseReg]
    rfl

theorem newRequests_bramWrites {ws : List (Loc × Word)} {s t : State} (h : t.bus = (bramWrites .q ws s).bus) :
    newRequests s t = asRequests ws := newRequests_eq s t _ (h.trans (bramWrites_bus .q ws s))

theorem bus_writerDone_setCycle (ch : Channel) (c : Count) (s : State) : (writerDone (ch.setCycle c s)).bus = s.bus := by
  cases ch <;> rfl

theorem segWrite_baseWrites {ch : Channel} {n : BitVec 16} {src : List Word} {s t : State}
    (h : segWrite ch n src s = .next t) :
    (newRequests s t).filter (isBaseWrite ch s.cfg) =
      (if n ≠ 0#16 ∧ (ch.cycle s).toNat % ch.size = 0 ∧ ch.cycle s ≠ 0#32 then
        [.write .q (.ctrl (ch.baseReg s.cfg)) (BitVec.ofNat 16 ((ch.cycle s).toNat / ch.size))] else []) ++
      (if ch.size - (ch.cycle s).toNat % ch.size < n.toNat then
        [.write .q (.ctrl (ch.baseReg s.cfg))
          (BitVec.ofNat 16 (((ch.cycle s).toNat / ch.size + 1) % 2 ^ (32 - ch.k)))] else []) := by
  obtain ⟨hroom, ⟨rfl, rfl⟩ | ⟨hn, heven, -⟩⟩ := (segWrite_next ch n src s t).1 h
  · have hnone : newRequests s (writerDone s) = [] := newRequests_eq s _ [] rfl
    simp [hnone]
  · rw [segWrite_of_listed ch n src s hroom hn heven] at h
    cases h
    rw [newRequests_bramWrites (bus_writerDone_setCycle ..), asRequests_append, List.filter_append, filter_rebaseWrites,
      filter_armWrites]
    simp [hn]

/-- Settles O28. -/
theorem baseIsWrittenOncePerBoundary : Obligations.BaseIsWrittenOncePerBoundary := fun _ _ _ _ =>
  ⟨fun h => segWrite_baseWrites (ch := .mod) h, fun h => segWrite_baseWrites (ch := .pstm) h⟩

/-! ## A run of units cut in two -/

/-- The words that `m` units take (42_mod_writer.md rule R182, 43_point_writer.md rule R197). -/
def unitWords (ch : Channel) (m : Nat) : Nat :=
  match ch with
  | .mod => (m + 1) / 2
  | .pstm => 4 * m
  | .gstm => 0

/-- `x` is `m` units of a channel that splits, an even number of them for modulation. -/
structure Whole (ch : Channel) (m : Nat) (x : List Word) : Prop where
  splits : ch ≠ .gstm
  even : ch = .mod → m % 2 = 0
  length : x.length = unitWords ch m

section Whole

variable {ch : Channel} {m : Nat} {x : List Word}

theorem pointWrites_append (wa : WinAddr) (m k : Nat) (x y : List Word) (h : x.length = 4 * m) :
    pointWrites wa m x ++ pointWrites (wa + BitVec.ofNat 14 (m * 8)) k y = pointWrites wa (m + k) (x ++ y) := by
  induction m generalizing wa x with
  | zero =>
    obtain rfl : x = [] := List.eq_nil_of_length_eq_zero (by simpa using h)
    simp [pointWrites]
  | succ m ih =>
    have hplace : wa + BitVec.ofNat 14 ((m + 1) * 8) = wa + BitVec.ofNat 14 8 + BitVec.ofNat 14 (m * 8) := by
      rw [BitVec.add_assoc, ← BitVec.ofNat_add, Nat.add_one_mul, Nat.add_comm (m * 8)]
    have hfour : 4 ≤ x.length := by omega
    have hrest := ih (wa + BitVec.ofNat 14 8) (x.drop 4) (by rw [List.length_drop]; omega)
    rw [Nat.succ_add]
    simp only [pointWrites, Config.pstmWords, Config.windowBits, Config.pstmStride]
    rw [List.append_assoc, hplace, hrest, List.take_append_of_le_length hfour, List.drop_append_of_le_length hfour]

theorem copyTo_append (place : Nat → Loc) (hplace : ∀ a, (place a).next = place (a + 1)) (a : Nat) (x y : List Word) :
    copyTo (place a) (x ++ y) = copyTo (place a) x ++ copyTo (place (a + x.length)) y := by
  induction x generalizing a with
  | nil => rfl
  | cons v x ih =>
    rw [List.cons_append, copyTo, copyTo, hplace, ih, List.length_cons, List.cons_append, Nat.add_assoc a 1,
      Nat.add_comm 1]

/-- Units put one run after the other are one run. -/
theorem putUnits_append (off k : Nat) (y : List Word) (h : Whole ch m x) :
    putUnits ch off m x ++ putUnits ch (off + m) k y = putUnits ch off (m + k) (x ++ y) := by
  obtain ⟨hsplits, heven, hlen⟩ := h
  cases ch with
  | gstm => exact absurd rfl hsplits
  | mod =>
    have hm := heven rfl
    change x.length = (m + 1) / 2 at hlen
    have hoff : (off + m) / 2 = off / 2 + x.length := by omega
    have hcount : (m + k + 1) / 2 = x.length + (k + 1) / 2 := by omega
    simp only [putUnits, Config.modSamplesPerWord, Config.windowBits]
    rw [hoff, hcount, List.take_length_add_append, copyTo_append (fun a => .modt (BitVec.ofNat 14 a)) next_modt,
      List.take_of_length_le (by omega)]
  | pstm =>
    have hoff : BitVec.ofNat 14 ((off + m) * 8) = BitVec.ofNat 14 (off * 8) + BitVec.ofNat 14 (m * 8) := by
      rw [← BitVec.ofNat_add, Nat.add_mul]
    simp only [putUnits, Config.windowBits, Config.pstmStride]
    rw [hoff]
    exact pointWrites_append _ m k x y hlen

theorem putUnits_zero (off : Nat) (y : List Word) : putUnits ch off 0 y = [] := by
  cases ch with
  | mod => rfl
  | pstm => rfl
  | gstm => rfl

/-- Only the units counted are put. -/
theorem putUnits_of_append (off : Nat) (y : List Word) (h : Whole ch m x) :
    putUnits ch off m (x ++ y) = putUnits ch off m x := by
  have hsum := putUnits_append off 0 y h
  rw [putUnits_zero, List.append_nil, Nat.add_zero] at hsum
  exact hsum.symm

theorem dropUnits_append (y : List Word) (h : Whole ch m x) : dropUnits ch m (x ++ y) = y := by
  obtain ⟨hsplits, heven, hlen⟩ := h
  cases ch with
  | gstm => exact absurd rfl hsplits
  | mod =>
    have hm := heven rfl
    change x.length = (m + 1) / 2 at hlen
    exact List.drop_left' (by change x.length = m / 2; omega)
  | pstm => exact List.drop_left' hlen

/-- The first `m` units of a run. -/
theorem split_units (hsplits : ch ≠ .gstm) (heven : ch = .mod → m % 2 = 0) (h : unitWords ch m ≤ x.length) :
    ∃ x1 x2, x = x1 ++ x2 ∧ Whole ch m x1 :=
  ⟨x.take (unitWords ch m), x.drop (unitWords ch m), (List.take_append_drop ..).symm, hsplits, heven,
    List.length_take_of_le h⟩

end Whole

section Cut

variable {ch : Channel} {cycle : Count} {a b : Nat} {x y : List Word}

/-- All writes of a SEG.WRITE that passes the checks (`segWrite_of_listed`). -/
def runWrites (ch : Channel) (c : Params) (cycle : Count) (m : Nat) (src : List Word) : List (Loc × Word) :=
  rebaseWrites ch c cycle ++ armWrites ch c cycle m src

theorem rebaseWrites_of_inside (c : Params) (h : ch.off cycle ≠ 0) : rebaseWrites ch c cycle = [] :=
  if_neg fun hc => h hc.1

theorem rebaseWrites_of_boundary (c : Params) (h : ch.off cycle = 0) (hne : cycle ≠ 0#32) :
    rebaseWrites ch c cycle = [baseWrite ch c cycle] := if_pos ⟨h, hne⟩

theorem armWrites_of_room (c : Params) (h : a ≤ ch.cap cycle) :
    armWrites ch c cycle a x = putUnits ch (ch.off cycle) a x := if_pos h

theorem armWrites_of_no_room (c : Params) (h : ch.cap cycle < a) :
    armWrites ch c cycle a x =
      putUnits ch (ch.off cycle) (ch.cap cycle) x ++
        [baseWrite ch c (cycle + BitVec.ofNat 32 (ch.cap cycle))] ++
        putUnits ch 0 (a - ch.cap cycle) (dropUnits ch (ch.cap cycle) x) := if_neg (Nat.not_le.2 h)

theorem unitWords_mono {m k : Nat} (h : m ≤ k) : unitWords ch m ≤ unitWords ch k := by
  cases ch <;> simp only [unitWords] <;> omega

theorem off_lt (ch : Channel) (cycle : Count) : ch.off cycle < ch.size := by
  rw [off_eq]
  exact Nat.mod_lt _ (by cases ch <;> decide)

theorem off_add_cap (ch : Channel) (cycle : Count) : ch.off cycle + ch.cap cycle = ch.size := by
  have := off_lt ch cycle
  rw [Channel.cap]
  omega

theorem toNat_advance (h : cycle.toNat + a < 2 ^ 32) : (cycle + BitVec.ofNat 32 a).toNat = cycle.toNat + a := by
  rw [BitVec.toNat_add, BitVec.toNat_ofNat]
  simp only [Config.cycleBits]
  omega

/-- The offset of the counter moved on within the segment. -/
theorem off_of_inside (hcount : cycle.toNat + a < 2 ^ 32) (ha : a < ch.cap cycle) :
    ch.off (cycle + BitVec.ofNat 32 a) = ch.off cycle + a := by
  rw [cap_eq] at ha
  rw [off_eq, off_eq, toNat_advance hcount]
  cases ch <;> simp only [size_mod, size_pstm, size_gstm] at ha ⊢ <;> omega

/-- The offset of the counter moved on into the next segment. -/
theorem off_of_beyond (hcount : cycle.toNat + a < 2 ^ 32) (hcap : ch.cap cycle ≤ a) (ha : a < ch.cap cycle + ch.size) :
    ch.off (cycle + BitVec.ofNat 32 a) = a - ch.cap cycle := by
  rw [cap_eq] at ha hcap ⊢
  rw [off_eq, toNat_advance hcount]
  cases ch <;> simp only [size_mod, size_pstm, size_gstm] at ha hcap ⊢ <;> omega

theorem cap_of_inside (hcount : cycle.toNat + a < 2 ^ 32) (ha : a < ch.cap cycle) :
    ch.cap (cycle + BitVec.ofNat 32 a) = ch.cap cycle - a := by
  rw [Channel.cap, off_of_inside hcount ha, ← Nat.sub_sub, ← Channel.cap]

theorem advance_advance : cycle + BitVec.ofNat 32 a + BitVec.ofNat 32 b = cycle + BitVec.ofNat 32 (a + b) := by
  rw [BitVec.add_assoc, ← BitVec.ofNat_add]

theorem advance_ne_zero (hcount : cycle.toNat + a < 2 ^ 32) (ha : 0 < a) : cycle + BitVec.ofNat 32 a ≠ 0#32 := by
  intro h
  have hnat := congrArg BitVec.toNat h
  rw [toNat_advance hcount] at hnat
  have hzero : (0#32).toNat = 0 := rfl
  omega

theorem cap_even (hcyc : cycle.toNat % 2 = 0) : Channel.mod.cap cycle % 2 = 0 := by
  rw [cap_eq, size_mod]
  omega

theorem Whole.append {y : List Word} (hx : Whole ch a x) (hy : Whole ch b y) : Whole ch (a + b) (x ++ y) := by
  refine ⟨hx.splits, fun hmod => by have := hx.even hmod; have := hy.even hmod; omega, ?_⟩
  have hxe := hx.even
  rw [List.length_append, hx.length, hy.length]
  cases ch with
  | mod =>
    have hm := hxe rfl
    simp only [unitWords]
    omega
  | pstm => exact (Nat.mul_add ..).symm
  | gstm => rfl

section Arms

variable (c : Params) (hx : Whole ch a x) (hlen : y.length = unitWords ch b)
  (hcount : cycle.toNat + (a + b) < 2 ^ 32) (hcyc : ch = .mod → cycle.toNat % 2 = 0) (ha : 0 < a) (hb : 0 < b)

include hx hcount ha in
/-- Both parts in one segment. -/
theorem cut_in_room (hroom : a + b ≤ ch.cap cycle) (hb : 0 < b) :
    runWrites ch c cycle a x ++ runWrites ch c (cycle + BitVec.ofNat 32 a) b y = runWrites ch c cycle (a + b) (x ++ y) := by
  have hin : a < ch.cap cycle := by omega
  have hoff := off_of_inside (ch := ch) (cycle := cycle) (a := a) (by omega) hin
  have hcap := cap_of_inside (ch := ch) (cycle := cycle) (a := a) (by omega) hin
  simp only [runWrites]
  rw [rebaseWrites_of_inside (cycle := cycle + _) c (by omega), armWrites_of_room c (by omega),
    armWrites_of_room c (by omega), armWrites_of_room c hroom, hoff, ← putUnits_append _ _ _ hx, List.nil_append,
    List.append_assoc]

include hx hlen hcount hcyc ha in
/-- The second part straddles. -/
theorem cut_before_boundary (hin : a < ch.cap cycle) (hover : ch.cap cycle < a + b) :
    runWrites ch c cycle a x ++ runWrites ch c (cycle + BitVec.ofNat 32 a) b y = runWrites ch c cycle (a + b) (x ++ y) := by
  have hoff := off_of_inside (ch := ch) (cycle := cycle) (a := a) (by omega) hin
  have hcap := cap_of_inside (ch := ch) (cycle := cycle) (a := a) (by omega) hin
  have hxe := hx.even
  obtain ⟨y1, y2, rfl, hy1⟩ := split_units (ch := ch) (m := ch.cap cycle - a) (x := y) hx.splits
    (fun hmod => by subst hmod; have := cap_even (hcyc rfl); have := hxe rfl; omega)
    (hlen ▸ unitWords_mono (by omega))
  have hfirst : Whole ch (ch.cap cycle) (x ++ y1) := by
    have hsum := hx.append hy1
    rwa [Nat.add_sub_cancel' hin.le] at hsum
  have hput := putUnits_append (ch.off cycle) (ch.cap cycle - a) y1 hx
  rw [Nat.add_sub_cancel' hin.le] at hput
  simp only [runWrites]
  rw [rebaseWrites_of_inside (cycle := cycle + _) c (by omega), armWrites_of_room c hin.le,
    armWrites_of_no_room c (by omega), armWrites_of_no_room c hover, hoff, hcap, advance_advance,
    Nat.add_sub_cancel' hin.le, putUnits_of_append _ _ hy1, dropUnits_append _ hy1, ← List.append_assoc x,
    putUnits_of_append _ _ hfirst, dropUnits_append _ hfirst, ← hput, show b - (ch.cap cycle - a) = a + b - ch.cap cycle by
      omega]
  simp only [List.append_assoc, List.nil_append]

include hx hcount ha hb in
/-- The cut is on the boundary: the lazy rebase of the second part stands where the straddle's write was. -/
theorem cut_on_boundary (hcap : a = ch.cap cycle) (hroom : b ≤ ch.size) :
    runWrites ch c cycle a x ++ runWrites ch c (cycle + BitVec.ofNat 32 a) b y = runWrites ch c cycle (a + b) (x ++ y) := by
  have hoff : ch.off (cycle + BitVec.ofNat 32 a) = 0 := by
    rw [off_of_beyond (by omega) hcap.ge (by omega), hcap, Nat.sub_self]
  have hcap' : ch.cap (cycle + BitVec.ofNat 32 a) = ch.size := by rw [Channel.cap, hoff, Nat.sub_zero]
  simp only [runWrites]
  rw [rebaseWrites_of_boundary c hoff (advance_ne_zero (by omega) ha), armWrites_of_room c hcap.le,
    armWrites_of_room c (by omega), armWrites_of_no_room c (by omega), hoff, ← hcap, putUnits_of_append _ _ hx,
    dropUnits_append _ hx, Nat.add_sub_cancel_left]
  simp only [List.append_assoc]

include hx hcount hcyc hb in
/-- The first part straddles. -/
theorem cut_beyond_boundary (hover : ch.cap cycle < a) (hroom : a + b ≤ ch.cap cycle + ch.size) :
    runWrites ch c cycle a x ++ runWrites ch c (cycle + BitVec.ofNat 32 a) b y = runWrites ch c cycle (a + b) (x ++ y) := by
  have hoff := off_of_beyond (ch := ch) (cycle := cycle) (a := a) (by omega) hover.le (by omega)
  have hsum := off_add_cap ch (cycle + BitVec.ofNat 32 a)
  have hxe := hx.even
  have hxlen := hx.length
  have hwhole : ch = .mod → ch.cap cycle % 2 = 0 := fun hmod => by subst hmod; exact cap_even (hcyc rfl)
  obtain ⟨x1, x2, rfl, hx1⟩ := split_units (ch := ch) (m := ch.cap cycle) (x := x) hx.splits hwhole
    (hxlen ▸ unitWords_mono hover.le)
  have hx2 : Whole ch (a - ch.cap cycle) x2 := by
    refine ⟨hx.splits, fun hmod => by have := hwhole hmod; have := hxe hmod; omega, ?_⟩
    rw [List.length_append, hx1.length] at hxlen
    cases ch with
    | mod =>
      have := hwhole rfl
      have := hxe rfl
      simp only [unitWords] at hxlen ⊢
      omega
    | pstm | gstm =>
      simp only [unitWords] at hxlen ⊢
      omega
  have hput := putUnits_append 0 b y hx2
  rw [Nat.zero_add] at hput
  simp only [runWrites]
  rw [rebaseWrites_of_inside (cycle := cycle + _) c (by omega), armWrites_of_no_room c hover,
    armWrites_of_room c (by omega), armWrites_of_no_room c (by omega), hoff, List.append_assoc x1,
    putUnits_of_append _ _ hx1, putUnits_of_append _ _ hx1, dropUnits_append _ hx1, dropUnits_append _ hx1,
    show a + b - ch.cap cycle = a - ch.cap cycle + b by omega, ← hput]
  simp only [List.append_assoc, List.nil_append]

include hx hlen hcount hcyc ha hb in
theorem runWrites_cut (hroom : a + b ≤ ch.cap cycle + ch.size) :
    runWrites ch c cycle a x ++ runWrites ch c (cycle + BitVec.ofNat 32 a) b y = runWrites ch c cycle (a + b) (x ++ y) := by
  obtain hin | hon | hover := lt_trichotomy a (ch.cap cycle)
  · by_cases hfits : a + b ≤ ch.cap cycle
    · exact cut_in_room c hx hcount ha hfits hb
    · exact cut_before_boundary c hx hlen hcount hcyc ha hin (Nat.not_le.1 hfits)
  · exact cut_on_boundary c hx hcount ha hb hon (by omega)
  · exact cut_beyond_boundary c hx hcount hcyc hb hover hroom

end Arms

end Cut

/-! ## The states of a cut run -/

section States

variable {ch : Channel} {s : State}

theorem bramWrites_writerDone (ws : List (Loc × Word)) (s : State) :
    bramWrites .q ws (writerDone s) = writerDone (bramWrites .q ws s) := by
  induction ws generalizing s with
  | nil => rfl
  | cons w ws ih => exact ih (bramWrite .q w.1 w.2 s)

theorem writerDone_writerDone (s : State) : writerDone (writerDone s) = writerDone s := rfl

theorem cfg_writerDone : (writerDone s).cfg = s.cfg := rfl

theorem setCycle_writerDone (c : Count) : ch.setCycle c (writerDone s) = writerDone (ch.setCycle c s) := by
  cases ch <;> rfl

theorem cycle_writerDone : ch.cycle (writerDone s) = ch.cycle s := by cases ch <;> rfl

/-- The state a SEG.WRITE of `m` units leaves. -/
def afterRun (ch : Channel) (m : Nat) (src : List Word) (s : State) : State :=
  writerDone (ch.setCycle (ch.cycle s + BitVec.ofNat 32 m)
    (bramWrites .q (runWrites ch s.cfg (ch.cycle s) m src) s))

theorem segWrite_run {n : BitVec 16} (src : List Word) (hroom : n.toNat ≤ ch.cap (ch.cycle s) + ch.size) (hn : n ≠ 0#16)
    (hcyc : ch = .mod → (ch.cycle s).toNat % 2 = 0) : segWrite ch n src s = .next (afterRun ch n.toNat src s) := by
  rw [segWrite_of_listed ch n src s hroom hn, BitVec.zeroExtend_eq_setWidth, ← BitVec.ofNat_toNat]
  · rfl
  · rintro ⟨hmod, hodd⟩
    rw [getLsbD_zero_eq_true, hcyc hmod] at hodd
    cases hodd

theorem afterRun_cycle (m : Nat) (src : List Word) :
    ch.cycle (afterRun ch m src s) = ch.cycle s + BitVec.ofNat 32 m := by
  rw [afterRun, cycle_writerDone, cycle_setCycle]

theorem afterRun_cfg (m : Nat) (src : List Word) : (afterRun ch m src s).cfg = s.cfg := by
  simp [afterRun, writerDone]

theorem afterRun_wf (m : Nat) (src : List Word) (h : s.mem.wf = true) : (afterRun ch m src s).mem.wf = true := by
  have hmem : (afterRun ch m src s).mem = (bramWrites .q (runWrites ch s.cfg (ch.cycle s) m src) s).mem := by
    simp [afterRun, writerDone]
  exact hmem ▸ bramWrites_wf .q _ s h

/-- Two runs one after the other, by their writes. -/
theorem afterRun_afterRun (a b : Nat) (x y : List Word) :
    afterRun ch b y (afterRun ch a x s) =
      writerDone (ch.setCycle (ch.cycle s + BitVec.ofNat 32 (a + b))
        (bramWrites .q (runWrites ch s.cfg (ch.cycle s) a x ++
          runWrites ch s.cfg (ch.cycle s + BitVec.ofNat 32 a) b y) s)) := by
  rw [afterRun, afterRun_cycle, afterRun_cfg, afterRun, bramWrites_writerDone, bramWrites_setCycle, setCycle_writerDone,
    setCycle_setCycle, advance_advance, writerDone_writerDone, bramWrites_append]

/-- A write does not look at `w_done`. -/
theorem segWrite_writerDone (n : BitVec 16) (src : List Word) :
    segWrite ch n src (writerDone s) = segWrite ch n src s := by
  simp only [segWrite, cycle_writerDone]
  split_ifs
  · rfl
  · rfl
  · rfl
  · simp only [writeUnits_eq, lazyRebase_eq, cycle_writerDone, cfg_writerDone, bramWrites_writerDone,
      setCycle_writerDone, writerDone_writerDone]

/-- The room that the first part leaves for the second. -/
theorem room_after {cycle : Count} {a b : Nat} (hcount : cycle.toNat + (a + b) < 2 ^ 32)
    (hroom : a + b ≤ ch.cap cycle + ch.size) : b ≤ ch.cap (cycle + BitVec.ofNat 32 a) + ch.size := by
  by_cases hin : a < ch.cap cycle
  · rw [cap_of_inside (by omega) hin]
    omega
  · omega

theorem even_after {cycle : Count} {a : Nat} {x : List Word} (hx : Whole ch a x) (hcount : cycle.toNat + a < 2 ^ 32)
    (hcyc : ch = .mod → cycle.toNat % 2 = 0) : ch = .mod → (cycle + BitVec.ofNat 32 a).toNat % 2 = 0 := fun hmod => by
  have heven := hx.even hmod
  have heven' := hcyc hmod
  rw [toNat_advance hcount]
  omega

theorem toNat_pos {n : BitVec 16} (h : n ≠ 0#16) : 0 < n.toNat :=
  Nat.pos_of_ne_zero fun hn => h (BitVec.eq_of_toNat_eq hn)

theorem segWrite_cut {a b : BitVec 16} {x y : List Word} (hx : Whole ch a.toNat x) (hy : y.length = unitWords ch b.toNat)
    (hcyc : ch = .mod → (ch.cycle s).toNat % 2 = 0) (hsum : a.toNat + b.toNat < 2 ^ 16)
    (hcount : (ch.cycle s).toNat + (a.toNat + b.toNat) < 2 ^ 32)
    (hroom : a.toNat + b.toNat ≤ ch.cap (ch.cycle s) + ch.size) :
    onNext (segWrite ch a x s) (segWrite ch b y) = segWrite ch (a + b) (x ++ y) s := by
  have hadd : (a + b).toNat = a.toNat + b.toNat := by
    rw [BitVec.toNat_add]
    omega
  by_cases ha : a = 0#16
  · subst ha
    obtain rfl : x = [] := List.eq_nil_of_length_eq_zero (by rw [hx.length]; cases ch <;> rfl)
    rw [segWrite_zero, BitVec.zero_add, List.nil_append]
    exact segWrite_writerDone b y
  have hfirst := segWrite_run (s := s) x (by omega) ha hcyc
  by_cases hb : b = 0#16
  · subst hb
    obtain rfl : y = [] := List.eq_nil_of_length_eq_zero (by rw [hy]; cases ch <;> rfl)
    rw [BitVec.add_zero, List.append_nil, hfirst]
    exact segWrite_zero ch [] _
  have hne : a + b ≠ 0#16 := fun h => by
    have hnat := congrArg BitVec.toNat h
    have hpos := toNat_pos ha
    have hz : (0#16).toNat = 0 := rfl
    omega
  have hsecond := segWrite_run (ch := ch) (s := afterRun ch a.toNat x s) y
    (by rw [afterRun_cycle]; exact room_after hcount hroom) hb
    (by rw [afterRun_cycle]; exact even_after hx (by omega) hcyc)
  have hjoined := segWrite_run (s := s) (x ++ y) (by rwa [hadd]) hne hcyc
  rw [hfirst, hjoined, hadd]
  refine hsecond.trans (congrArg Host.Outcome.next ?_)
  rw [afterRun_afterRun, runWrites_cut s.cfg hx hy hcount hcyc (toNat_pos ha) (toNat_pos hb) hroom, afterRun]

end States

theorem execAll_pair (i j : Instr) (s : State) : execAll [i, j] s = onNext (exec i s) (exec j) := by
  have hlast : execAll [j] = exec j := funext fun t => Turns.onNext_next (exec j t)
  rw [execAll, hlast]

/-- Settles O26: the parts and the whole make one list of writes. -/
theorem runsDoNotDependOnTheCut : Obligations.RunsDoNotDependOnTheCut := by
  intro s a b x y
  refine ⟨fun hx hy ha hcyc hsum hcount hroom => ?_, fun hx hy hcount hroom => ?_⟩
  · have hwhole : Whole .mod a.toNat x := ⟨nofun, fun _ => ha, by rw [hx, unitWords]; omega⟩
    rw [execAll_pair]
    exact segWrite_cut (ch := .mod) hwhole hy (fun _ => hcyc) hsum (by rwa [← Nat.add_assoc])
      (by simpa only [cap_eq, size_mod, cycle_mod] using hroom)
  · have hwhole : Whole .pstm a.toNat x := ⟨nofun, nofun, hx⟩
    rw [execAll_pair]
    exact segWrite_cut (ch := .pstm) hwhole hy nofun (by omega) (by rwa [← Nat.add_assoc])
      (by simpa only [cap_eq, size_pstm, cycle_pstm] using hroom)

end Sys2Proof.WriterRuns
end

section
/-! The length register at the end of a stream (41_ring_writer.md rule R163). -/

namespace Sys2Proof.StreamLength

open Sys2Proof Sys2Proof.Machine Sys2Proof.WriterRuns

theorem execAll_append (is js : List Instr) (s : State) :
    execAll (is ++ js) s = onNext (execAll is s) (execAll js) := by
  induction is generalizing s with
  | nil => rfl
  | cons i is ih =>
    rw [List.cons_append, execAll, execAll]
    cases exec i s with
    | next t => exact ih t
    | fault r => rfl
    | refused r => rfl

theorem execAll_single (i : Instr) (s : State) : execAll [i] s = exec i s := Turns.onNext_next (exec i s)

/-- From `s` to `t` a stream of channel `ch` has gone on by `m` units. -/
structure Streamed (ch : Channel) (m : Nat) (s t : State) : Prop where
  cycle : (ch.cycle t).toNat = (ch.cycle s).toNat + m
  cfg : t.cfg = s.cfg
  wf : s.mem.wf = true → t.mem.wf = true

theorem Streamed.refl (ch : Channel) (s : State) : Streamed ch 0 s s := ⟨rfl, rfl, id⟩

theorem Streamed.trans {ch : Channel} {m k : Nat} {s t u : State} (hst : Streamed ch m s t) (htu : Streamed ch k t u) :
    Streamed ch (m + k) s u :=
  ⟨by rw [htu.cycle, hst.cycle, Nat.add_assoc], htu.cfg.trans hst.cfg, fun h => htu.wf (hst.wf h)⟩

/-- A write of up to a segment goes on with the stream. -/
theorem segWrite_streams {ch : Channel} {n : BitVec 16} {s : State} (src : List Word) (hn : n.toNat ≤ ch.size)
    (hcyc : ch = .mod → (ch.cycle s).toNat % 2 = 0) (hcount : (ch.cycle s).toNat + n.toNat < 2 ^ 32) :
    ∃ t, segWrite ch n src s = .next t ∧ Streamed ch n.toNat s t := by
  by_cases hzero : n = 0#16
  · subst hzero
    exact ⟨_, RingWriter.segWrite_zero ch src s, by rw [cycle_writerDone]; rfl, rfl, id⟩
  · refine ⟨_, segWrite_run src (by omega) hzero hcyc, ?_, afterRun_cfg .., afterRun_wf _ _⟩
    rw [afterRun_cycle, toNat_advance hcount]

theorem segWriteGain_streams {m : BitVec 16} {s : State} (passes : List Pass) (hm : m.toNat ≤ 32)
    (hcount : s.stmCycle.toNat + m.toNat < 2 ^ 32) :
    ∃ t, segWriteGain m passes s = .next t ∧ Streamed .gstm m.toNat s t := by
  have hnext := (segWriteGain_next m passes s _).2 ⟨hm, rfl⟩
  obtain ⟨mem, bus, hshape, hwf⟩ := segWriteGain_shape m passes s _ hnext
  refine ⟨_, hnext, ?_⟩
  rw [hshape]
  refine ⟨?_, rfl, hwf⟩
  change (s.stmCycle + m.zeroExtend 32).toNat = s.stmCycle.toNat + m.toNat
  rw [BitVec.zeroExtend_eq_setWidth, ← BitVec.ofNat_toNat, toNat_advance hcount]

/-- The units of a list of writes. -/
def total {α : Type} (ws : List (BitVec 16 × α)) : Nat := (ws.map fun w => w.1.toNat).sum

/-- Writes one after the other, each of which goes on with the stream from a counter at which it may start. -/
theorem execAll_streams {α : Type} {ch : Channel} (op : BitVec 16 × α → Instr) (starts : Nat → Prop)
    (ws : List (BitVec 16 × α))
    (hstep : ∀ w ∈ ws, ∀ s, starts (ch.cycle s).toNat → (ch.cycle s).toNat + w.1.toNat < 2 ^ 16 →
      ∃ t, exec (op w) s = .next t ∧ Streamed ch w.1.toNat s t)
    (hnext : ∀ w ∈ ws.dropLast, ∀ c, starts c → starts (c + w.1.toNat)) (s : State) (hs : starts (ch.cycle s).toNat)
    (hsum : (ch.cycle s).toNat + total ws < 2 ^ 16) :
    ∃ t, execAll (ws.map op) s = .next t ∧ Streamed ch (total ws) s t := by
  induction ws generalizing s with
  | nil => exact ⟨s, rfl, Streamed.refl ch s⟩
  | cons w ws ih =>
    have htotal : total (w :: ws) = w.1.toNat + total ws := List.sum_cons
    obtain ⟨u, hexec, hu⟩ := hstep w (List.mem_cons_self ..) s hs (by omega)
    rw [List.map_cons, execAll, hexec]
    cases ws with
    | nil => exact ⟨u, rfl, hu⟩
    | cons w' rest =>
      have hstart : starts (ch.cycle u).toNat := by
        rw [hu.cycle]
        exact hnext w (List.mem_cons_self ..) _ hs
      obtain ⟨t, hrun, ht⟩ := ih (fun v hv => hstep v (List.mem_cons_of_mem _ hv))
        (fun v hv => hnext v (List.mem_cons_of_mem _ hv)) u hstart (by rw [hu.cycle]; omega)
      exact ⟨t, hrun, htotal ▸ hu.trans ht⟩

theorem segBegin_cycle (ch : Channel) (s : State) : ch.cycle (segBegin ch s) = 0#32 := by cases ch <;> rfl

/-- A stream from SEG.BEGIN to SEG.END. -/
theorem stream_length {α : Type} {ch : Channel} {first last : Instr} (op : BitVec 16 × α → Instr) (starts : Nat → Prop)
    (ws : List (BitVec 16 × α)) {s : State} (hwf : s.mem.wf = true) (hfirst : exec first s = .next (segBegin ch s))
    (hlast : ∀ t, exec last t = .next (segEnd ch t)) (hzero : starts 0)
    (hstep : ∀ w ∈ ws, ∀ s, starts (ch.cycle s).toNat → (ch.cycle s).toNat + w.1.toNat < 2 ^ 16 →
      ∃ t, exec (op w) s = .next t ∧ Streamed ch w.1.toNat s t)
    (hnext : ∀ w ∈ ws.dropLast, ∀ c, starts c → starts (c + w.1.toNat)) (hsum : total ws < 2 ^ 16) :
    ∃ t, execAll (first :: ws.map op ++ [last]) s = .next t ∧ (ch.cycle t).toNat = total ws ∧
      t.ctrlReg (ch.lenReg s.cfg) = BitVec.ofNat 16 (max 1 (total ws) - 1) := by
  have hnone : (ch.cycle (segBegin ch s)).toNat = 0 := by rw [segBegin_cycle]; rfl
  have hbegun := Drain.wrote_segBegin ch s
  obtain ⟨u, hrun, hu⟩ := execAll_streams op starts ws hstep hnext (segBegin ch s) (hnone ▸ hzero) (by omega)
  have hcycle : (ch.cycle u).toNat = total ws := by rw [hu.cycle, hnone, Nat.zero_add]
  have hcfg : u.cfg = s.cfg := hu.cfg.trans hbegun.cfg
  refine ⟨segEnd ch u, ?_, ?_, ?_⟩
  · rw [execAll_append, execAll, hfirst, Machine.onNext_next, hrun, Machine.onNext_next, execAll_single, hlast]
  · rw [← hcycle]
    cases ch <;> rfl
  · rw [← hcfg, RingWriter.segEnd_lenReg ch (hu.wf (hbegun.wf hwf)), lengthOf_eq, hcycle]

/-- Settles O31. -/
theorem lengthRegisterLaw : Obligations.LengthRegisterLaw := by
  intro s hwf
  refine ⟨fun ws hfit heven hsum => ?mod, fun ws hfit hsum => ?pstm, fun ws hfit hsum => ?gstm⟩
  case mod =>
    exact stream_length (ch := .mod) (fun w => .segWriteMod w.1 w.2) (· % 2 = 0) ws hwf rfl (fun _ => rfl) rfl
      (fun w hw u hu hlt => segWrite_streams (ch := .mod) w.2 (hfit w hw) (fun _ => hu) (by omega))
      (fun w hw c hc => by have := heven w hw; omega) hsum
  case pstm =>
    exact stream_length (ch := .pstm) (fun w => .segWritePstm w.1 w.2) (fun _ => True) ws hwf rfl (fun _ => rfl) trivial
      (fun w hw u _ hlt => segWrite_streams (ch := .pstm) w.2 (hfit w hw) nofun (by omega)) (fun _ _ _ _ => trivial) hsum
  case gstm =>
    exact stream_length (ch := .gstm) (fun w => .segWriteGstm w.1 w.2) (fun _ => True) ws hwf rfl (fun _ => rfl) trivial
      (fun w hw u _ hlt => segWriteGain_streams w.2 (hfit w hw) (by simp only [cycle_gstm] at hlt; omega))
      (fun _ _ _ _ => trivial) hsum

end Sys2Proof.StreamLength
end

section
/-! Where the units of a SEG.WRITE land in the device's tables: one unit after the other by position, across the boundary of
a segment as inside one (41_ring_writer.md rules R151, R155 and R162, 20_memory.md rule R68). -/

namespace Sys2Proof.TableLayout

open Sys2Proof Sys2Proof.Machine Sys2Proof.RingWriter Sys2Proof.DeviceWrites Sys2Proof.WriterRuns

/-! ## The words of a table, numbered through all segments -/

/-- The location of word `k` of a channel's window. -/
def place (ch : Channel) (k : Nat) : Loc :=
  match ch with
  | .mod => .modt (BitVec.ofNat 14 k)
  | .pstm => .stmt (BitVec.ofNat 14 k)
  | .gstm => .stmt (BitVec.ofNat 14 k)

/-- The device's word number of the first word of a channel's table. -/
def origin (ch : Channel) : Nat :=
  match ch with
  | .mod => 2 ^ 30
  | .pstm => 3 * 2 ^ 30
  | .gstm => 3 * 2 ^ 30

/-- The segment-base register of a channel names segment `g`. -/
def AtSegment (ch : Channel) (g : Nat) (s : State) : Prop := s.ctrlReg (ch.baseReg s.cfg) = BitVec.ofNat 16 g

theorem byteAddr_place {ch : Channel} {s : State} {g k : Nat} (hg : AtSegment ch g s) (hlt : g < 2 ^ 16) (hk : k < 2 ^ 14) :
    s.byteAddr (place ch k) = 2 * (origin ch + (g * 2 ^ 14 + k)) := by
  have hbase : (s.ctrlReg (ch.baseReg s.cfg)).toNat = g := by
    rw [hg, BitVec.toNat_ofNat, Nat.mod_eq_of_lt hlt]
  have hword : (BitVec.ofNat 14 k).toNat = k := by rw [BitVec.toNat_ofNat, Nat.mod_eq_of_lt hk]
  cases ch with
  | mod => exact congrArg (2 * ·) (congrArg (2 ^ 30 + ·) (congrArg₂ (· * 2 ^ 14 + ·) hbase hword))
  | pstm => exact congrArg (2 * ·) (congrArg (3 * 2 ^ 30 + ·) (congrArg₂ (· * 2 ^ 14 + ·) hbase hword))
  | gstm => exact congrArg (2 * ·) (congrArg (3 * 2 ^ 30 + ·) (congrArg₂ (· * 2 ^ 14 + ·) hbase hword))

theorem place_inj {ch : Channel} {k k' : Nat} (hk : k < 2 ^ 14) (hk' : k' < 2 ^ 14) (h : place ch k = place ch k') :
    k = k' := by
  have haddr : BitVec.ofNat 14 k = BitVec.ofNat 14 k' := by
    cases ch with
    | mod => exact Loc.modt.inj h
    | pstm => exact Loc.stmt.inj h
    | gstm => exact Loc.stmt.inj h
  have hnat := congrArg BitVec.toNat haddr
  rwa [BitVec.toNat_ofNat, BitVec.toNat_ofNat, Nat.mod_eq_of_lt hk, Nat.mod_eq_of_lt hk'] at hnat

theorem place_region (ch : Channel) (k : Nat) : regionCode (place ch k) ≠ 0 := by
  cases ch with
  | mod => exact Nat.succ_ne_zero 0
  | pstm | gstm => exact Nat.succ_ne_zero 2

/-! ## The word numbers of a run of units -/

/-- The words of the `m` units from position `p` on, each with its number in the table; `f` numbers the words of the
source (42_mod_writer.md rule R182, 43_point_writer.md rule R197). -/
def unitsAt (ch : Channel) (p m : Nat) (f : Nat → Word) : List (Nat × Word) :=
  match ch with
  | .mod => (List.range ((m + 1) / 2)).map fun i => (p / 2 + i, f i)
  | .pstm => (List.range m).flatMap fun i => (List.range 4).map fun j => (8 * (p + i) + j, f (4 * i + j))
  | .gstm => []

section Units

variable {ch : Channel} {p m : Nat} {f : Nat → Word} {x y : Nat × Word}

theorem mem_unitsAt_mod : x ∈ unitsAt .mod p m f ↔ ∃ i, i < (m + 1) / 2 ∧ x = (p / 2 + i, f i) := by
  simp only [unitsAt, List.mem_map, List.mem_range, eq_comm]

theorem mem_unitsAt_pstm : x ∈ unitsAt .pstm p m f ↔
    ∃ i j, i < m ∧ j < 4 ∧ x = (8 * (p + i) + j, f (4 * i + j)) := by
  simp only [unitsAt, List.mem_flatMap, List.mem_map, List.mem_range, eq_comm]
  constructor
  · rintro ⟨i, hi, j, hj, hx⟩
    exact ⟨i, j, hi, hj, hx⟩
  · rintro ⟨i, j, hi, hj, hx⟩
    exact ⟨i, hi, j, hj, hx⟩

/-- The number of the first word of a position. -/
def firstWord (ch : Channel) (p : Nat) : Nat :=
  match ch with
  | .mod => p / 2
  | .pstm => 8 * p
  | .gstm => 0

theorem firstWord_le (h : x ∈ unitsAt ch p m f) : firstWord ch p ≤ x.1 := by
  cases ch with
  | gstm => cases h
  | mod =>
    obtain ⟨i, -, rfl⟩ := mem_unitsAt_mod.1 h
    exact Nat.le_add_right ..
  | pstm =>
    obtain ⟨i, j, -, -, rfl⟩ := mem_unitsAt_pstm.1 h
    change 8 * p ≤ 8 * (p + i) + j
    omega

theorem lt_firstWord (heven : ch = .mod → m % 2 = 0) (h : x ∈ unitsAt ch p m f) : x.1 < firstWord ch (p + m) := by
  cases ch with
  | gstm => cases h
  | mod =>
    obtain ⟨i, hi, rfl⟩ := mem_unitsAt_mod.1 h
    have hm := heven rfl
    change p / 2 + i < (p + m) / 2
    omega
  | pstm =>
    obtain ⟨i, j, hi, hj, rfl⟩ := mem_unitsAt_pstm.1 h
    change 8 * (p + i) + j < 8 * (p + m)
    omega

/-- Units inside a segment lie inside the window. -/
theorem lt_window (hcyc : ch = .mod → p % 2 = 0) (hfit : p + m ≤ ch.size) (h : x ∈ unitsAt ch p m f) : x.1 < 2 ^ 14 := by
  cases ch with
  | gstm => cases h
  | mod =>
    obtain ⟨i, hi, rfl⟩ := mem_unitsAt_mod.1 h
    have hp := hcyc rfl
    rw [size_mod] at hfit
    change p / 2 + i < 2 ^ 14
    omega
  | pstm =>
    obtain ⟨i, j, hi, hj, rfl⟩ := mem_unitsAt_pstm.1 h
    rw [size_pstm] at hfit
    change 8 * (p + i) + j < 2 ^ 14
    omega

theorem unitsAt_unique (hx : x ∈ unitsAt ch p m f) (hy : y ∈ unitsAt ch p m f) (h : x.1 = y.1) : x.2 = y.2 := by
  cases ch with
  | gstm => cases hx
  | mod =>
    obtain ⟨i, -, rfl⟩ := mem_unitsAt_mod.1 hx
    obtain ⟨i', -, rfl⟩ := mem_unitsAt_mod.1 hy
    rw [Nat.add_left_cancel h]
  | pstm =>
    obtain ⟨i, j, -, hj, rfl⟩ := mem_unitsAt_pstm.1 hx
    obtain ⟨i', j', -, hj', rfl⟩ := mem_unitsAt_pstm.1 hy
    simp only at h
    obtain ⟨rfl, rfl⟩ : i = i' ∧ j = j' := by omega
    rfl

/-- From the numbers in a window to those in the table. -/
theorem unitsAt_shift (g : Nat) :
    ((unitsAt ch p m f).map fun x => (g * 2 ^ 14 + x.1, x.2)) = unitsAt ch (g * ch.size + p) m f := by
  cases ch with
  | gstm => rfl
  | mod =>
    have hp : (g * 32768 + p) / 2 = g * 2 ^ 14 + p / 2 := by omega
    simp only [unitsAt, List.map_map, Function.comp_def, size_mod, hp, Nat.add_assoc]
  | pstm =>
    simp only [unitsAt, List.map_flatMap, List.map_map, Function.comp_def, size_pstm]
    refine List.flatMap_congr fun i _ => List.map_congr_left fun j _ => ?_
    simp only [Prod.mk.injEq, and_true]
    omega

/-- A run of units and the run after it. -/
theorem unitsAt_append (cap : Nat) (heven : ch = .mod → cap % 2 = 0) :
    unitsAt ch p (cap + m) f =
      unitsAt ch p cap f ++ unitsAt ch (p + cap) m fun i => f (unitWords ch cap + i) := by
  cases ch with
  | gstm => rfl
  | mod =>
    have hcap := heven rfl
    have hcount : (cap + m + 1) / 2 = (cap + 1) / 2 + (m + 1) / 2 := by omega
    have hp : (p + cap) / 2 = p / 2 + (cap + 1) / 2 := by omega
    rw [unitsAt, hcount, List.range_add, List.map_append, List.map_map]
    simp only [unitsAt, unitWords, hp, Function.comp_def, Nat.add_assoc]
  | pstm =>
    simp only [unitsAt, unitWords, List.range_add, List.flatMap_append, List.flatMap_map]
    refine congrArg _ (List.flatMap_congr fun i _ => List.map_congr_left fun j _ => ?_)
    rw [Nat.mul_add 4, Nat.add_assoc, Nat.add_assoc]

theorem getD_drop (src : List Word) (k i : Nat) : (src.drop k).getD i 0#16 = src.getD (k + i) 0#16 := by
  simp [List.getD_eq_getElem?_getD]

/-- What `put` writes, by number. -/
theorem putUnits_eq_unitsAt {src : List Word} (off : Nat) (hlen : unitWords ch m ≤ src.length) :
    putUnits ch off m src = (unitsAt ch off m fun i => src.getD i 0#16).map fun x => (place ch x.1, x.2) := by
  cases ch with
  | gstm => rfl
  | mod =>
    rw [putUnits_mod off m src hlen]
    simp only [unitsAt, List.map_map, Function.comp_def, place]
  | pstm =>
    rw [putUnits_pstm off m src hlen]
    simp only [unitsAt, List.map_flatMap, List.map_map, Function.comp_def, place, Nat.mul_comm 8]

theorem putUnits_rest_eq_unitsAt {src : List Word} {cap : Nat} (heven : ch = .mod → cap % 2 = 0)
    (hlen : unitWords ch (cap + m) ≤ src.length) :
    putUnits ch 0 m (dropUnits ch cap src) =
      (unitsAt ch 0 m fun i => src.getD (unitWords ch cap + i) 0#16).map fun x => (place ch x.1, x.2) := by
  have hdrop : ch ≠ .gstm → dropUnits ch cap src = src.drop (unitWords ch cap) := fun hne => by
    cases ch with
    | gstm => exact absurd rfl hne
    | mod =>
      have hcap := heven rfl
      exact congrArg (List.drop · src) (show cap / 2 = (cap + 1) / 2 by omega)
    | pstm => rfl
  cases ch with
  | gstm => rfl
  | mod =>
    have hcap := heven rfl
    simp only [unitWords] at hlen
    rw [hdrop nofun, putUnits_eq_unitsAt 0 (by simp only [unitWords, List.length_drop]; omega)]
    simp only [getD_drop]
  | pstm =>
    simp only [unitWords] at hlen
    rw [hdrop nofun, putUnits_eq_unitsAt 0 (by simp only [unitWords, List.length_drop]; omega)]
    simp only [getD_drop]

end Units

/-! ## What the device holds after a run -/

/-- The two bytes of each word listed. -/
def wordBytes (ch : Channel) (xs : List (Nat × Word)) : List Nat :=
  xs.flatMap fun x => [2 * (origin ch + x.1), 2 * (origin ch + x.1) + 1]

/-- From `s` to `t` the table of a channel has taken the words listed, and nothing else of the device has changed but the
channel's segment-base register. -/
structure Laid (ch : Channel) (s t : State) (xs : List (Nat × Word)) : Prop where
  words : ∀ x ∈ xs, t.mem.readWord (2 * (origin ch + x.1)) = x.2
  frame : SameBytesOutside s t (regBytes (ch.baseReg s.cfg) ++ wordBytes ch xs)
  cfg : t.cfg = s.cfg

section Laid

variable {ch : Channel} {s t u : State} {xs ys : List (Nat × Word)}

theorem mem_wordBytes {a : Nat} : a ∈ wordBytes ch xs ↔
    ∃ x ∈ xs, a = 2 * (origin ch + x.1) ∨ a = 2 * (origin ch + x.1) + 1 := by
  simp [wordBytes]

theorem wordBytes_append : wordBytes ch (xs ++ ys) = wordBytes ch xs ++ wordBytes ch ys := List.flatMap_append

theorem readWord_of_sameBytesOutside {bs : List Nat} {a : Nat} (h : SameBytesOutside s t bs) (hlo : a ∉ bs)
    (hhi : a + 1 ∉ bs) : t.mem.readWord a = s.mem.readWord a := by
  rw [Memory.readWord, Memory.readWord, h a hlo, h (a + 1) hhi]

theorem origin_le (ch : Channel) : 2 ^ 30 ≤ origin ch := by cases ch <;> decide

/-- A table word is no byte of a register, and of no other table word. -/
theorem notMem_bytes {a : Word} {k : Nat} (h : ∀ y ∈ ys, k ≠ y.1) {b : Nat} (hb : b < 2) :
    2 * (origin ch + k) + b ∉ regBytes a ++ wordBytes ch ys := by
  have hreg := a.isLt
  have horigin := origin_le ch
  intro hmem
  obtain hr | hw := List.mem_append.1 hmem
  · have : 2 * (origin ch + k) + b = 2 * a.toNat ∨ 2 * (origin ch + k) + b = 2 * a.toNat + 1 := by
      simpa [regBytes, ctrlAddr] using hr
    omega
  · obtain ⟨y, hy, hb'⟩ := mem_wordBytes.1 hw
    have := h y hy
    omega

theorem Laid.trans (hsu : Laid ch s u xs) (hut : Laid ch u t ys) (hapart : ∀ x ∈ xs, ∀ y ∈ ys, x.1 ≠ y.1) :
    Laid ch s t (xs ++ ys) := by
  have hcfg : ch.baseReg u.cfg = ch.baseReg s.cfg := by rw [hsu.cfg]
  refine ⟨List.forall_mem_append.2 ⟨fun x hx => ?_, hut.words⟩, ?_, hut.cfg.trans hsu.cfg⟩
  · rw [readWord_of_sameBytesOutside (a := 2 * (origin ch + x.1)) hut.frame (notMem_bytes (hapart x hx) (b := 0) (by decide))
      (notMem_bytes (hapart x hx) (b := 1) (by decide)), hsu.words x hx]
  · refine LastWrites.sameBytesOutside_mono (sameBytesOutside_trans hsu.frame hut.frame) ?_
    rw [hcfg, wordBytes_append]
    intro a ha
    simp only [List.mem_append] at ha ⊢
    tauto

theorem Laid.of_mem_eq (h : Laid ch s u xs) (hmem : t.mem = u.mem) (hcfg : t.cfg = u.cfg) : Laid ch s t xs :=
  ⟨fun x hx => hmem ▸ h.words x hx, fun a ha => by rw [hmem, h.frame a ha], hcfg.trans h.cfg⟩

theorem Laid.frame_of_subset {bs : List Nat} (h : Laid ch s t xs) (hsub : wordBytes ch xs ⊆ bs) :
    SameBytesOutside s t (regBytes (ch.baseReg s.cfg) ++ bs) :=
  LastWrites.sameBytesOutside_mono h.frame fun _ ha =>
    List.mem_append.2 ((List.mem_append.1 ha).imp_right fun hw => hsub hw)

theorem Laid.refl (ch : Channel) (s : State) : Laid ch s s [] := ⟨nofun, fun _ _ => rfl, rfl⟩

/-- A write of the segment-base register lays nothing out. -/
theorem laid_base (v : Word) (hwf : s.mem.wf = true) :
    Laid ch s (bramWrite .q (.ctrl (ch.baseReg s.cfg)) v s) [] := by
  refine ⟨nofun, ?_, rfl⟩
  rw [show wordBytes ch [] = [] from rfl, List.append_nil]
  exact sameBytesOutside_bramWrite_ctrl .q _ v hwf

/-- `put` lays units out in the segment that the base register names. -/
theorem laid_put {g off m : Nat} {f : Nat → Word} {ws : List (Loc × Word)}
    (hws : ws = (unitsAt ch off m f).map fun x => (place ch x.1, x.2)) (hwf : s.mem.wf = true) (hg : AtSegment ch g s)
    (hlt : g < 2 ^ 16) (hcyc : ch = .mod → off % 2 = 0) (hfit : off + m ≤ ch.size) :
    Laid ch s (bramWrites .q ws s) (unitsAt ch (g * ch.size + off) m f) := by
  subst hws
  rw [← unitsAt_shift]
  have hregion : ∀ w ∈ (unitsAt ch off m f).map fun x => (place ch x.1, x.2), regionCode w.1 ≠ 0 := by
    intro w hw
    obtain ⟨x, -, rfl⟩ := List.mem_map.1 hw
    exact place_region ch x.1
  have haddr : ∀ x ∈ unitsAt ch off m f, s.byteAddr (place ch x.1) = 2 * (origin ch + (g * 2 ^ 14 + x.1)) :=
    fun x hx => byteAddr_place hg hlt (lt_window hcyc hfit hx)
  refine ⟨fun z hz => ?_, ?_, bramWrites_cfg ..⟩
  · obtain ⟨x, hx, rfl⟩ := List.mem_map.1 hz
    rw [← haddr x hx]
    refine readWord_bramWrites_of_mem .q hwf hregion (List.mem_map.2 ⟨x, hx, rfl⟩) fun w hw hloc => ?_
    obtain ⟨y, hy, rfl⟩ := List.mem_map.1 hw
    have hnum : y.1 = x.1 := place_inj (lt_window hcyc hfit hy) (lt_window hcyc hfit hx) hloc
    exact unitsAt_unique (x := y) (y := x) hy hx hnum
  · refine LastWrites.sameBytesOutside_mono (sameBytesOutside_bramWrites_of_region .q hwf hregion) fun a ha => ?_
    obtain ⟨l, hl, hbyte⟩ := List.mem_flatMap.1 ha
    obtain ⟨w, hw, rfl⟩ := List.mem_map.1 hl
    obtain ⟨x, hx, rfl⟩ := List.mem_map.1 hw
    rw [haddr x hx] at hbyte
    refine List.mem_append_right _ (mem_wordBytes.2 ⟨_, List.mem_map.2 ⟨x, hx, rfl⟩, ?_⟩)
    simpa using hbyte

end Laid

/-! ## A run, from the register before it to the register after it -/

section Run

variable {ch : Channel} {s : State} {m : Nat} {src : List Word}

theorem atSegment_of_region {d : Domain} {ws : List (Loc × Word)} {g : Nat} (hwf : s.mem.wf = true)
    (hws : ∀ w ∈ ws, regionCode w.1 ≠ 0) (h : AtSegment ch g s) : AtSegment ch g (bramWrites d ws s) := by
  rw [AtSegment, bramWrites_cfg, ctrlReg_bramWrites_of_region d hwf hws]
  exact h

theorem atSegment_base (g : Nat) (hwf : s.mem.wf = true) :
    AtSegment ch g (bramWrite .q (.ctrl (ch.baseReg s.cfg)) (BitVec.ofNat 16 g) s) :=
  ctrlReg_bramWrite_same .q _ _ hwf

/-- The lazy rebase brings the register to the counter's segment (rule R156). -/
theorem atSegment_rebase (hwf : s.mem.wf = true) (h : BaseTracks ch s) :
    AtSegment ch ((ch.cycle s).toNat / ch.size) (bramWrites .q (rebaseWrites ch s.cfg (ch.cycle s)) s) := by
  rw [rebaseWrites_eq]
  split
  next => exact atSegment_base _ hwf
  next hinside =>
    obtain hnow | ⟨hoff, hne, -⟩ := h
    · rw [baseOf_eq] at hnow
      exact hnow
    · exact absurd ⟨off_eq ch _ ▸ hoff, hne⟩ hinside

theorem laid_rebase (hwf : s.mem.wf = true) : Laid ch s (bramWrites .q (rebaseWrites ch s.cfg (ch.cycle s)) s) [] := by
  rw [rebaseWrites_eq]
  split
  · exact laid_base _ hwf
  · exact Laid.refl ch s

theorem size_pos (ch : Channel) : 0 < ch.size := by cases ch <;> decide

section Arms

variable (hwf : s.mem.wf = true) (hg : AtSegment ch ((ch.cycle s).toNat / ch.size) s)
  (hlen : src.length = unitWords ch m) (hcyc : ch = .mod → (ch.cycle s).toNat % 2 = 0)
  (hcount : (ch.cycle s).toNat + m < 2 ^ 16 * ch.size)

/-- The even offset of an even counter. -/
theorem off_even {cycle : Count} (hcyc : ch = .mod → cycle.toNat % 2 = 0) :
    ch = .mod → cycle.toNat % ch.size % 2 = 0 := fun hmod => by
  have heven := hcyc hmod
  subst hmod
  rw [size_mod]
  omega

include hwf hg hlen hcyc hcount in
theorem laid_in_room (hfits : m ≤ ch.cap (ch.cycle s)) :
    Laid ch s (bramWrites .q (armWrites ch s.cfg (ch.cycle s) m src) s)
        (unitsAt ch (ch.cycle s).toNat m fun i => src.getD i 0#16) ∧
      AtSegment ch ((ch.cycle s).toNat / ch.size) (bramWrites .q (armWrites ch s.cfg (ch.cycle s) m src) s) := by
  have hpos := size_pos ch
  have hoff := Nat.mod_lt (ch.cycle s).toNat hpos
  have hseg : (ch.cycle s).toNat / ch.size < 2 ^ 16 := Nat.div_lt_of_lt_mul (by rw [Nat.mul_comm]; omega)
  have hroom : (ch.cycle s).toNat % ch.size + m ≤ ch.size := by
    rw [cap_eq] at hfits
    omega
  rw [armWrites_of_fits s.cfg src hfits]
  have hlaid := laid_put (putUnits_eq_unitsAt _ hlen.ge) hwf hg hseg (off_even hcyc) hroom
  rw [Nat.div_add_mod'] at hlaid
  exact ⟨hlaid, atSegment_of_region hwf (putUnits_region _ _ _ _) hg⟩

theorem next_segment (cycle : Count) : (cycle.toNat / ch.size + 1) * ch.size = cycle.toNat + ch.cap cycle := by
  have hsplit := Nat.div_add_mod' cycle.toNat ch.size
  have hoff := Nat.mod_lt cycle.toNat (size_pos ch)
  rw [Nat.add_one_mul, cap_eq]
  omega

/-- No segment number below 2^16 is cut by the width of the counter. -/
theorem segment_mod {g : Nat} (hg : g < 2 ^ 16) : g % 2 ^ (32 - ch.k) = g := by
  refine Nat.mod_eq_of_lt (hg.trans_le (Nat.pow_le_pow_right (by decide) ?_))
  cases ch <;> decide

include hwf hg hlen hcyc hcount in
theorem laid_over_boundary (hover : ch.cap (ch.cycle s) < m) (hroom : m ≤ ch.cap (ch.cycle s) + ch.size)
    (hsplits : ch ≠ .gstm) :
    Laid ch s (bramWrites .q (armWrites ch s.cfg (ch.cycle s) m src) s)
        (unitsAt ch (ch.cycle s).toNat m fun i => src.getD i 0#16) ∧
      AtSegment ch ((ch.cycle s).toNat / ch.size + 1)
        (bramWrites .q (armWrites ch s.cfg (ch.cycle s) m src) s) := by
  have hoff := Nat.mod_lt (ch.cycle s).toNat (size_pos ch)
  have hcap : ch.cap (ch.cycle s) = ch.size - (ch.cycle s).toNat % ch.size := cap_eq ..
  have hbound := next_segment (ch := ch) (ch.cycle s)
  have hseg : (ch.cycle s).toNat / ch.size + 1 < 2 ^ 16 :=
    Nat.lt_of_mul_lt_mul_right (a := ch.size) (by rw [hbound]; omega)
  have hcapeven : ch = .mod → ch.cap (ch.cycle s) % 2 = 0 := fun hmod => by subst hmod; exact cap_even (hcyc rfl)
  rw [armWrites_of_straddle s.cfg src (Nat.not_le.2 hover), segment_mod hseg, bramWrites_append, bramWrites_append]
  have htail := laid_put (putUnits_eq_unitsAt ((ch.cycle s).toNat % ch.size) (hlen ▸ unitWords_mono hover.le)) hwf hg
    (by omega) (off_even hcyc) (by omega)
  rw [Nat.div_add_mod'] at htail
  have hwf' := bramWrites_wf .q (putUnits ch ((ch.cycle s).toNat % ch.size) (ch.cap (ch.cycle s)) src) s hwf
  generalize bramWrites .q (putUnits ch ((ch.cycle s).toNat % ch.size) (ch.cap (ch.cycle s)) src) s = u at *
  have hcfg : ch.baseReg s.cfg = ch.baseReg u.cfg := by rw [htail.cfg]
  rw [hcfg, bramWrites_cons, bramWrites_nil]
  have hbase := laid_base (ch := ch) (BitVec.ofNat 16 ((ch.cycle s).toNat / ch.size + 1)) hwf'
  have hwf'' := bramWrite_wf .q (.ctrl (ch.baseReg u.cfg)) (BitVec.ofNat 16 ((ch.cycle s).toNat / ch.size + 1)) u hwf'
  have hat := atSegment_base (ch := ch) ((ch.cycle s).toNat / ch.size + 1) hwf'
  have hhead := laid_put
    (putUnits_rest_eq_unitsAt (m := m - ch.cap (ch.cycle s)) hcapeven
      (by rw [Nat.add_sub_cancel' hover.le]; exact hlen.ge))
    hwf'' hat hseg (fun _ => rfl) (by omega)
  rw [hbound, Nat.add_zero ((ch.cycle s).toNat + ch.cap (ch.cycle s))] at hhead
  refine ⟨?_, atSegment_of_region hwf'' (putUnits_region _ _ _ _) hat⟩
  have hall := (htail.trans hbase (fun _ _ => nofun)).trans hhead fun x hx y hy => by
    rw [List.append_nil] at hx
    exact ((lt_firstWord hcapeven hx).trans_le (firstWord_le hy)).ne
  rwa [List.append_nil, ← unitsAt_append _ hcapeven, Nat.add_sub_cancel' hover.le] at hall

end Arms

/-- The segment that the register names after a run of `m` units. -/
def segmentAfter (ch : Channel) (cycle : Count) (m : Nat) : Nat :=
  if m ≤ ch.cap cycle then cycle.toNat / ch.size else cycle.toNat / ch.size + 1

theorem laid_run (hwf : s.mem.wf = true) (htracks : BaseTracks ch s) (hsplits : ch ≠ .gstm)
    (hlen : src.length = unitWords ch m) (hcyc : ch = .mod → (ch.cycle s).toNat % 2 = 0)
    (hroom : m ≤ ch.cap (ch.cycle s) + ch.size) (hcount : (ch.cycle s).toNat + m < 2 ^ 16 * ch.size) :
    Laid ch s (bramWrites .q (runWrites ch s.cfg (ch.cycle s) m src) s)
        (unitsAt ch (ch.cycle s).toNat m fun i => src.getD i 0#16) ∧
      AtSegment ch (segmentAfter ch (ch.cycle s) m) (bramWrites .q (runWrites ch s.cfg (ch.cycle s) m src) s) := by
  rw [runWrites, bramWrites_append]
  have hrebase := laid_rebase (ch := ch) hwf
  have hat := atSegment_rebase hwf htracks
  have hwf' := bramWrites_wf .q (rebaseWrites ch s.cfg (ch.cycle s)) s hwf
  have hcycle : ch.cycle (bramWrites .q (rebaseWrites ch s.cfg (ch.cycle s)) s) = ch.cycle s := cycle_bramWrites ..
  generalize bramWrites .q (rebaseWrites ch s.cfg (ch.cycle s)) s = u at *
  rw [← hrebase.cfg, ← hcycle, segmentAfter]
  rw [← hcycle] at hat hcyc hroom hcount
  split
  next hfits =>
    obtain ⟨hlaid, hseg⟩ := laid_in_room hwf' hat hlen hcyc hcount hfits
    exact ⟨hrebase.trans hlaid nofun, hseg⟩
  next hover =>
    obtain ⟨hlaid, hseg⟩ := laid_over_boundary hwf' hat hlen hcyc hcount (Nat.not_le.1 hover) hroom hsplits
    exact ⟨hrebase.trans hlaid nofun, hseg⟩

/-- A run leaves the register at the segment of its last unit (rule R162). -/
theorem segmentAfter_eq {cycle : Count} (hm : 0 < m) (hroom : m ≤ ch.cap cycle + ch.size) :
    segmentAfter ch cycle m = (cycle.toNat + (m - 1)) / ch.size := by
  have hcap := cap_eq ch cycle
  by_cases hfits : m ≤ ch.cap cycle
  · rw [segmentAfter, if_pos hfits]
    cases ch <;> simp only [size_mod, size_pstm, size_gstm] at hcap ⊢ <;> omega
  · rw [segmentAfter, if_neg hfits]
    cases ch <;> simp only [size_mod, size_pstm, size_gstm] at hcap hroom ⊢ <;> omega

theorem baseTracks_of_atSegment {t : State} {c : Nat} (hcycle : (ch.cycle t).toNat = c + m) (hm : 0 < m)
    (h : AtSegment ch ((c + (m - 1)) / ch.size) t) : BaseTracks ch t := by
  have hreg : t.ctrlReg (ch.baseReg t.cfg) = BitVec.ofNat 16 ((c + (m - 1)) / ch.size) := h
  by_cases hbound : (c + m) % ch.size = 0
  · have hpred : (ch.cycle t - 1#32).toNat = c + (m - 1) := by
      have hlt := (ch.cycle t).isLt
      rw [BitVec.toNat_sub, hcycle, BitVec.toNat_ofNat]
      simp only [Config.cycleBits] at hlt ⊢
      omega
    refine .inr ⟨by rw [off_eq, hcycle, hbound], fun hzero => ?_, by rw [hreg, baseOf_eq, hpred]⟩
    rw [hzero] at hcycle
    have hz : (0#32).toNat = 0 := rfl
    omega
  · have hsame : (c + (m - 1)) / ch.size = (c + m) / ch.size := by
      cases ch <;> simp only [size_mod, size_pstm, size_gstm] at hbound ⊢ <;> omega
    exact .inl (by rw [hreg, baseOf_eq, hcycle, hsame])

/-- SEG.WRITE: the counter goes on, the register keeps up with it, the units are laid out by position, and nothing else
changes (rule R162). -/
theorem segWrite_lays {n : BitVec 16} (hwf : s.mem.wf = true) (htracks : BaseTracks ch s) (hsplits : ch ≠ .gstm)
    (hlen : src.length = unitWords ch n.toNat) (hcyc : ch = .mod → (ch.cycle s).toNat % 2 = 0)
    (hroom : n.toNat ≤ ch.cap (ch.cycle s) + ch.size) (hcount : (ch.cycle s).toNat + n.toNat < 2 ^ 16 * ch.size) :
    ∃ t, segWrite ch n src s = .next t ∧
      t = { writerDone (ch.setCycle (ch.cycle s + n.zeroExtend 32) s) with mem := t.mem, bus := t.bus } ∧
      BaseTracks ch t ∧ Laid ch s t (unitsAt ch (ch.cycle s).toNat n.toNat fun i => src.getD i 0#16) := by
  by_cases hn : n = 0#16
  · subst hn
    have hnone : unitsAt ch (ch.cycle s).toNat (0#16).toNat (fun i => src.getD i 0#16) = [] := by cases ch <;> rfl
    have hstay : ch.setCycle (ch.cycle s + (0#16).zeroExtend 32) s = s := by
      rw [show (0#16).zeroExtend 32 = 0#32 from rfl, BitVec.add_zero]
      cases ch <;> rfl
    refine ⟨_, segWrite_zero ch src s, by rw [hstay], ?_,
      by rw [hnone]; exact (Laid.refl ch s).of_mem_eq rfl rfl⟩
    cases ch <;> exact htracks
  · have hpos := toNat_pos hn
    have hsmall : 2 ^ 16 * ch.size ≤ 2 ^ 32 := by cases ch <;> decide
    obtain ⟨hlaid, hseg⟩ := laid_run hwf htracks hsplits hlen hcyc hroom hcount
    rw [segmentAfter_eq hpos hroom] at hseg
    have hmem : (afterRun ch n.toNat src s).mem =
        (bramWrites .q (runWrites ch s.cfg (ch.cycle s) n.toNat src) s).mem := by simp [afterRun, writerDone]
    have hcfg : (afterRun ch n.toNat src s).cfg =
        (bramWrites .q (runWrites ch s.cfg (ch.cycle s) n.toNat src) s).cfg := by simp [afterRun, writerDone]
    have hcycle : (ch.cycle (afterRun ch n.toNat src s)).toNat = (ch.cycle s).toNat + n.toNat := by
      rw [afterRun_cycle, toNat_advance (by omega)]
    refine ⟨_, segWrite_run src hroom hn hcyc, ?_, ?_, hlaid.of_mem_eq hmem hcfg⟩
    · rw [afterRun, bramWrites_eq, BitVec.zeroExtend_eq_setWidth, ← BitVec.ofNat_toNat]
      cases ch <;> rfl
    · refine baseTracks_of_atSegment hcycle hpos ?_
      rw [AtSegment, hcfg, State.ctrlReg, hmem]
      exact hseg

end Run

/-! ## The device's word numbers of the units (`deviceWord`) -/

theorem deviceWord_mod (c i : Nat) : deviceWord .mod (c + 2 * i) 0 = 2 ^ 30 + (c / 2 + i) := by
  rw [deviceWord]
  omega

theorem deviceWord_pstm (c j : Nat) : deviceWord .pstm c j = 3 * 2 ^ 30 + (8 * c + j) := by
  rw [deviceWord]
  omega

theorem deviceWord_gstm (c j : Nat) : deviceWord .gstm c j = 3 * 2 ^ 30 + (512 * c + j) := by
  rw [deviceWord]
  omega

theorem mem_unitBytes {ch : Channel} {c n step w a : Nat} : a ∈ unitBytes ch c n step w ↔
    ∃ i < n, ∃ j < w, a = 2 * deviceWord ch (c + step * i) j ∨ a = 2 * deviceWord ch (c + step * i) j + 1 := by
  simp [unitBytes]

theorem wordBytes_mod {c m : Nat} {f : Nat → Word} :
    wordBytes .mod (unitsAt .mod c m f) ⊆ unitBytes .mod c ((m + 1) / 2) 2 1 := by
  intro a ha
  obtain ⟨x, hx, hbyte⟩ := mem_wordBytes.1 ha
  obtain ⟨i, hi, rfl⟩ := mem_unitsAt_mod.1 hx
  refine mem_unitBytes.2 ⟨i, hi, 0, Nat.one_pos, ?_⟩
  rwa [deviceWord_mod]

theorem wordBytes_pstm {c m : Nat} {f : Nat → Word} :
    wordBytes .pstm (unitsAt .pstm c m f) ⊆ unitBytes .pstm c m 1 4 := by
  intro a ha
  obtain ⟨x, hx, hbyte⟩ := mem_wordBytes.1 ha
  obtain ⟨i, j, hi, hj, rfl⟩ := mem_unitsAt_pstm.1 hx
  refine mem_unitBytes.2 ⟨i, hi, j, hj, ?_⟩
  rwa [deviceWord_pstm, Nat.one_mul]

theorem Laid.mod_words {s t : State} {c m i : Nat} {f : Nat → Word} (h : Laid .mod s t (unitsAt .mod c m f))
    (hi : i < (m + 1) / 2) : t.mem.readWord (2 * deviceWord .mod (c + 2 * i) 0) = f i := by
  rw [deviceWord_mod]
  exact h.words (c / 2 + i, f i) (mem_unitsAt_mod.2 ⟨i, hi, rfl⟩)

theorem Laid.pstm_words {s t : State} {c m i j : Nat} {f : Nat → Word} (h : Laid .pstm s t (unitsAt .pstm c m f))
    (hi : i < m) (hj : j < 4) : t.mem.readWord (2 * deviceWord .pstm (c + i) j) = f (4 * i + j) := by
  rw [deviceWord_pstm]
  exact h.words (8 * (c + i) + j, f (4 * i + j)) (mem_unitsAt_pstm.2 ⟨i, j, hi, hj, rfl⟩)

/-- Settles O24. -/
theorem modWriteLaysSamplesOut : Obligations.ModWriteLaysSamplesOut := by
  intro s n src hwf hcyc hlen hroom htracks hcount
  obtain ⟨t, hexec, hshape, htracks', hlaid⟩ := segWrite_lays (ch := .mod) (src := src) hwf htracks nofun hlen
    (fun _ => hcyc) (by simpa only [cap_eq, size_mod, cycle_mod] using hroom)
    (by simp only [size_mod, cycle_mod]; omega)
  refine ⟨t, hexec, hshape, htracks', fun i hi => hlaid.mod_words (hlen ▸ hi), ?_⟩
  rw [hlen]
  exact hlaid.frame_of_subset wordBytes_mod

/-- Settles O25. -/
theorem pointWriteLaysSamplesOut : Obligations.PointWriteLaysSamplesOut := by
  intro s n src hwf hlen hroom htracks hcount
  obtain ⟨t, hexec, hshape, htracks', hlaid⟩ := segWrite_lays (ch := .pstm) (src := src) hwf htracks nofun hlen nofun
    (by simpa only [cap_eq, size_pstm, cycle_pstm] using hroom) (by simp only [size_pstm, cycle_pstm]; omega)
  exact ⟨t, hexec, hshape, htracks', fun i j hi hj => hlaid.pstm_words hi hj,
    hlaid.frame_of_subset wordBytes_pstm⟩

end Sys2Proof.TableLayout
end

section
/-! A gain stream of equal steps (44_gain_writer.md rule R223). -/

namespace Sys2Proof.GainAlignment

open Sys2Proof Sys2Proof.Machine Sys2Proof.TableLayout Sys2Proof.WriterRuns

section Slots

variable {s : State} {m : BitVec 16}

/-- A counter that is a multiple of the step leaves room for a step in the segment. -/
theorem step_in_segment {c m : Nat} (hm : m = 1 ∨ m = 2 ∨ m = 4) (hc : c % m = 0) : c % 32 + m ≤ 32 := by
  obtain rfl | rfl | rfl := hm <;> omega

theorem step_divides {c m : Nat} (hc : c % m = 0) : (c + m) % m = 0 := by
  rw [Nat.add_mod_right, hc]

/-- The slot of pass `k`, where the register names the counter's segment. -/
theorem byteAddr_slotLoc {k : Nat} (o : SlotOff) (hbase : s.stmBase = BitVec.ofNat 16 (s.stmCycle.toNat / 32))
    (hlt : s.stmCycle.toNat < 2 ^ 21) (hk : s.stmCycle.toNat % 32 + k < 32) :
    s.byteAddr (slotLoc s.stmCycle k o) = 2 * deviceWord .gstm (s.stmCycle.toNat + k) o.toNat := by
  have ho : o.toNat < 512 := o.isLt
  have haddr := byteAddr_place (ch := .gstm) (k := (s.stmCycle.toNat + k) % 32 * 512 + o.toNat) hbase (by omega)
    (by omega)
  rw [deviceWord_gstm]
  refine haddr.trans (congrArg (2 * ·) (congrArg (3 * 2 ^ 30 + ·) ?_))
  omega

theorem toNat_step (hlt : s.stmCycle.toNat + m.toNat < 2 ^ 21) :
    (s.stmCycle + m.zeroExtend 32).toNat = s.stmCycle.toNat + m.toNat := by
  rw [BitVec.zeroExtend_eq_setWidth, ← BitVec.ofNat_toNat, toNat_advance (by omega)]

end Slots

/-- Settles O30: a step never passes a boundary, so the register names the segment of all its slots. -/
theorem alignedGainStreamIsContiguous : Obligations.AlignedGainStreamIsContiguous := by
  intro s m passes hwf hm hlen hasc hc hlt hbase
  have hm' : m.toNat = 1 ∨ m.toNat = 2 ∨ m.toNat = 4 := by obtain rfl | rfl | rfl := hm <;> decide
  have hroom := step_in_segment hm' hc
  obtain ⟨-, hfills⟩ := GainSlots.gainWriteFillsSlots s m passes
  obtain ⟨t, hexec, hshape, -, hwords, hboundary, hinside, -⟩ := hfills hwf (by omega) hlen hasc
  have hcount : t.stmCycle.toNat = s.stmCycle.toNat + m.toNat :=
    (congrArg (fun u : State => u.stmCycle.toNat) hshape).trans (toNat_step hlt)
  refine ⟨t, hexec, hcount, hcount ▸ step_divides hc, ?_, fun k p x hp hx => ?_⟩
  · rw [hcount]
    by_cases hbound : (s.stmCycle.toNat + m.toNat) % 32 = 0
    · have hvalue := baseOf_eq .gstm (s.stmCycle + m.zeroExtend 32)
      rw [toNat_step hlt] at hvalue
      exact (hboundary hbound).trans hvalue
    · rw [hinside hbound, hbase, show s.stmCycle.toNat / 32 = (s.stmCycle.toNat + m.toNat) / 32 by omega]
  · obtain ⟨hk, -⟩ := List.getElem?_eq_some_iff.1 hp
    rw [← byteAddr_slotLoc x.1 hbase (by omega) (by omega)]
    exact hwords k p x hp hx

end Sys2Proof.GainAlignment
end

section
/-! The frames that carry modulation and point samples: what a head frame leaves in the device, and that a continuation frame
is its SEG.WRITE and SEG.END (42_mod_writer.md rules R184 and R185, 43_point_writer.md rule R199). -/

namespace Sys2Proof.FrameStreams

open Sys2Proof Sys2Proof.Machine Sys2Proof.RingWriter Sys2Proof.DeviceWrites Sys2Proof.LastWrites
open Sys2Proof.WriterRuns Sys2Proof.TableLayout Sys2Proof.Drain

/-! ## A list of register writes -/

/-- Writes to registers of region `CTRL`. -/
def regWrites (as : List (Word × Word)) : List (Loc × Word) := as.map fun r => (.ctrl r.1, r.2)

/-- The bytes of the registers of such a list. -/
def regsBytes (as : List (Word × Word)) : List Nat := as.flatMap fun r => regBytes r.1

section Registers

variable {as : List (Word × Word)} {s t : State}

theorem regWrites_locs (as : List (Word × Word)) : (regWrites as).map Prod.fst = (as.map Prod.fst).map Loc.ctrl := by
  simp [regWrites, Function.comp_def]

theorem ctrlReg_of_regWrites (h : Wrote .q (regWrites as) s t) (hwf : s.mem.wf = true) (hnodup : (as.map Prod.fst).Nodup)
    {a v : Word} (hr : (a, v) ∈ as) : t.ctrlReg a = v := by
  have hlocs : ((regWrites as).map Prod.fst).Nodup := by
    rw [regWrites_locs]
    exact DeviceTables.ctrlLocs_nodup hnodup
  rw [State.ctrlReg, h.mem]
  exact ctrlReg_bramWrites_of_nodup .q hwf hlocs (List.mem_map.2 ⟨_, hr, rfl⟩)

theorem ctrlReg_of_not_regWrites (h : Wrote .q (regWrites as) s t) (hwf : s.mem.wf = true) {a : Word}
    (ha : a ∉ as.map Prod.fst) : t.ctrlReg a = s.ctrlReg a := by
  have hnot : Loc.ctrl a ∉ (regWrites as).map Prod.fst := by
    rw [regWrites_locs]
    rintro hmem
    obtain ⟨b, hb, hab⟩ := List.mem_map.1 hmem
    exact ha (Loc.ctrl.inj hab ▸ hb)
  rw [State.ctrlReg, h.mem]
  exact (ctrlReg_bramWrites .q hwf a).trans (by rw [lastWrite_of_notMem hnot]; rfl)

theorem sameBytesOutside_of_regWrites (h : Wrote .q (regWrites as) s t) (hwf : s.mem.wf = true) :
    SameBytesOutside s t (regsBytes as) := by
  have hregs : ∀ w ∈ regWrites as, regionCode w.1 = 0 := by
    intro w hw
    obtain ⟨r, -, rfl⟩ := List.mem_map.1 hw
    rfl
  have hbytes : storedBytes s ((regWrites as).map Prod.fst) = regsBytes as := by
    simp only [storedBytes, regWrites, regsBytes, List.map_map, List.flatMap_map]
    rfl
  intro x hx
  rw [h.mem]
  exact sameBytesOutside_bramWrites_ctrl .q hwf hregs x (hbytes ▸ hx)

end Registers

/-! ## Samples and the end of the stream leave the other registers -/

section Pieces

variable {ch : Channel} {s t : State}

theorem regBytes_apart {a b : Word} (h : a ≠ b) : ctrlAddr a ∉ regBytes b ∧ ctrlAddr a + 1 ∉ regBytes b := by
  have hne : a.toNat ≠ b.toNat := fun he => h (BitVec.eq_of_toNat_eq he)
  simp only [regBytes, ctrlAddr, List.mem_cons, List.not_mem_nil, or_false, not_or]
  omega

theorem ctrlReg_of_laid {xs : List (Nat × Word)} (h : Laid ch s t xs) {a : Word} (ha : a ≠ ch.baseReg s.cfg) :
    t.ctrlReg a = s.ctrlReg a := by
  obtain ⟨hlo, hhi⟩ := regBytes_apart ha
  have htable : ∀ b < 2, ctrlAddr a + b ∉ wordBytes ch xs := fun b hb hmem => by
    have horigin := origin_le ch
    have hlt := a.isLt
    obtain ⟨x, -, hx⟩ := mem_wordBytes.1 hmem
    rw [ctrlAddr] at hx
    omega
  refine readWord_of_sameBytesOutside h.frame (fun hmem => ?_) fun hmem => ?_
  · exact (List.mem_append.1 hmem).elim hlo (htable 0 (by decide))
  · exact (List.mem_append.1 hmem).elim hhi (htable 1 (by decide))

/-- The last part of a frame: SEG.END where its flag is set. -/
def ended (ch : Channel) (c : Bool) (s : State) : State := if c then segEnd ch s else s

variable {c : Bool}

theorem ended_frame (hwf : s.mem.wf = true) : SameBytesOutside s (ended ch c s) (regBytes (ch.lenReg s.cfg)) := by
  cases c with
  | false => exact fun _ _ => rfl
  | true => exact segEnd_sameBytesOutside ch hwf

theorem ended_ctrlReg (hwf : s.mem.wf = true) {a : Word} (ha : a ≠ ch.lenReg s.cfg) :
    (ended ch c s).ctrlReg a = s.ctrlReg a :=
  have hapart := regBytes_apart ha
  readWord_of_sameBytesOutside (ended_frame hwf) hapart.1 hapart.2

theorem ended_lenReg_true (hwf : s.mem.wf = true) :
    (ended ch true s).ctrlReg (ch.lenReg s.cfg) = BitVec.ofNat 16 (max 1 (ch.cycle s).toNat - 1) := by
  rw [← lengthOf_eq]
  exact segEnd_lenReg ch hwf

theorem ended_words {xs : List (Nat × Word)} (hwf : s.mem.wf = true)
    (h : ∀ x ∈ xs, s.mem.readWord (2 * (origin ch + x.1)) = x.2) :
    ∀ x ∈ xs, (ended ch c s).mem.readWord (2 * (origin ch + x.1)) = x.2 := by
  intro x hx
  have hout (b : Nat) (hb : b < 2) : 2 * (origin ch + x.1) + b ∉ regBytes (ch.lenReg s.cfg) := by
    have hnot := notMem_bytes (ch := ch) (ys := []) (a := ch.lenReg s.cfg) (k := x.1) nofun hb
    simpa [wordBytes] using hnot
  rw [readWord_of_sameBytesOutside (a := 2 * (origin ch + x.1)) (ended_frame hwf) (hout 0 (by decide))
    (hout 1 (by decide)), h x hx]

/-- A counter in the first segment has a base register of 0. -/
theorem baseReg_of_first_segment (h : BaseTracks ch s) (hlt : (ch.cycle s).toNat < ch.size) :
    s.ctrlReg (ch.baseReg s.cfg) = 0#16 := by
  obtain hbase | ⟨hoff, hne, -⟩ := h
  · rw [hbase, baseOf_eq, Nat.div_eq_of_lt hlt]
  · rw [off_eq, Nat.mod_eq_of_lt hlt] at hoff
    exact absurd (BitVec.eq_of_toNat_eq hoff) hne

end Pieces

/-! ## A head frame -/

/-- The block `s` after the begin part of a head frame, its device writes those of the segment-base register and of the
registers `as`. -/
structure Begun (ch : Channel) (as : List (Word × Word)) (s u : State) : Prop where
  wrote : Wrote .q (regWrites ((ch.baseReg s.cfg, 0#16) :: as)) s u
  cycle : ch.cycle u = 0#32

/-- What a head frame leaves in the device: the base register 0, the registers `as`, the units from position 0 on, the
length register where the stream ends; every other byte as it was. -/
structure HeadLeft (ch : Channel) (as : List (Word × Word)) (xs : List (Nat × Word)) (c : Bool) (s t : State) : Prop where
  base : t.ctrlReg (ch.baseReg s.cfg) = 0#16
  regs : ∀ a v, (a, v) ∈ as → t.ctrlReg a = v
  words : ∀ x ∈ xs, t.mem.readWord (2 * (origin ch + x.1)) = x.2
  length_of_not : c = false → t.ctrlReg (ch.lenReg s.cfg) = s.ctrlReg (ch.lenReg s.cfg)
  frame : SameBytesOutside s t (regBytes (ch.baseReg s.cfg) ++ regsBytes as ++ regBytes (ch.lenReg s.cfg) ++
    wordBytes ch xs)

section Head

variable {ch : Channel} {as : List (Word × Word)} {s u t : State}

theorem begun_baseTracks (h : Begun ch as s u) (hwf : s.mem.wf = true)
    (hnodup : (ch.baseReg s.cfg :: ch.lenReg s.cfg :: as.map Prod.fst).Nodup) : BaseTracks ch u := by
  have hregs : (((ch.baseReg s.cfg, 0#16) :: as).map Prod.fst).Nodup := hnodup.sublist (.cons_cons _ (.cons _ (.refl _)))
  left
  rw [h.wrote.cfg, h.cycle, ctrlReg_of_regWrites h.wrote hwf hregs (List.mem_cons_self ..), baseOf_eq]
  rw [show (0#32).toNat = 0 from rfl, Nat.zero_div]

/-- The parts of a head frame, one after the other. -/
theorem headLeft_of_parts {xs : List (Nat × Word)} {c : Bool} (hbegun : Begun ch as s u) (hlaid : Laid ch u t xs)
    (hwf : s.mem.wf = true) (hwf' : t.mem.wf = true) (hbase : t.ctrlReg (ch.baseReg s.cfg) = 0#16)
    (hnodup : (ch.baseReg s.cfg :: ch.lenReg s.cfg :: as.map Prod.fst).Nodup) :
    HeadLeft ch as xs c s (ended ch c t) := by
  obtain ⟨hbaseNot, hlenNodup⟩ := List.nodup_cons.1 hnodup
  obtain ⟨hlenNot, hasNodup⟩ := List.nodup_cons.1 hlenNodup
  obtain ⟨hbaseLen, hbaseAs⟩ := not_or.1 (List.mem_cons.not.1 hbaseNot)
  have hregs : (((ch.baseReg s.cfg, 0#16) :: as).map Prod.fst).Nodup := List.nodup_cons.2 ⟨hbaseAs, hasNodup⟩
  have hcfg : u.cfg = s.cfg := hbegun.wrote.cfg
  have hcfg' : t.cfg = s.cfg := hlaid.cfg.trans hcfg
  refine ⟨?_, fun a v hr => ?_, ended_words hwf' hlaid.words, fun hc => ?_, ?_⟩
  · rw [ended_ctrlReg hwf' (by rwa [hcfg']), hbase]
  · have ha := List.mem_map_of_mem (f := Prod.fst) hr
    rw [ended_ctrlReg hwf' (by rw [hcfg']; rintro rfl; exact hlenNot ha),
      ctrlReg_of_laid hlaid (by rw [hcfg]; rintro rfl; exact hbaseAs ha)]
    exact ctrlReg_of_regWrites hbegun.wrote hwf hregs (List.mem_cons_of_mem _ hr)
  · subst hc
    have hlen : ch.lenReg s.cfg ∉ ((ch.baseReg s.cfg, 0#16) :: as).map Prod.fst :=
      List.mem_cons.not.2 (not_or.2 ⟨Ne.symm hbaseLen, hlenNot⟩)
    exact (ctrlReg_of_laid hlaid (by rw [hcfg]; exact Ne.symm hbaseLen)).trans
      (ctrlReg_of_not_regWrites hbegun.wrote hwf hlen)
  · have hbytes := sameBytesOutside_trans
      (sameBytesOutside_trans (sameBytesOutside_of_regWrites hbegun.wrote hwf) hlaid.frame)
      (ended_frame (ch := ch) (c := c) hwf')
    rw [hcfg, hcfg'] at hbytes
    refine sameBytesOutside_mono hbytes fun x hx => ?_
    simp only [List.mem_append, regsBytes, List.flatMap_cons] at hx ⊢
    tauto

theorem writerDone_setCycle_cycle (c : Count) (m : Memory) (b : List BusReq) :
    ch.cycle { writerDone (ch.setCycle c s) with mem := m, bus := b } = c := by cases ch <;> rfl

/-- A head frame of less than a segment of samples completes. -/
theorem head_stream {n : BitVec 16} {src : List Word} {c : Bool} (hbegun : Begun ch as s u) (hwf : s.mem.wf = true)
    (hnodup : (ch.baseReg s.cfg :: ch.lenReg s.cfg :: as.map Prod.fst).Nodup) (hsplits : ch ≠ .gstm)
    (hlen : src.length = unitWords ch n.toNat) (hn : n.toNat < ch.size) :
    ∃ t, onNext (segWrite ch n src u) (endIf ch c) = .next t ∧
      HeadLeft ch as (unitsAt ch 0 n.toNat fun i => src.getD i 0#16) c s t ∧
      (c = true → t.ctrlReg (ch.lenReg s.cfg) = BitVec.ofNat 16 (max 1 n.toNat - 1)) := by
  have hzero : (ch.cycle u).toNat = 0 := by rw [hbegun.cycle]; rfl
  have hpos := size_pos ch
  obtain ⟨t, hexec, hshape, htracks, hlaid⟩ := segWrite_lays (hbegun.wrote.wf hwf) (begun_baseTracks hbegun hwf hnodup)
    hsplits hlen (fun _ => by rw [hzero]) (by omega) (by omega)
  have hcfg : t.cfg = s.cfg := hlaid.cfg.trans hbegun.wrote.cfg
  have hcycle : (ch.cycle t).toNat = n.toNat := by
    rw [hshape, writerDone_setCycle_cycle, hbegun.cycle, BitVec.zero_add, BitVec.zeroExtend_eq_setWidth,
      BitVec.toNat_setWidth, Nat.mod_eq_of_lt (n.isLt.trans (by decide))]
  obtain ⟨ws, hws⟩ := wrote_segWrite hexec
  have hwf' := hws.wf (hbegun.wrote.wf hwf)
  have hbase : t.ctrlReg (ch.baseReg s.cfg) = 0#16 := by
    rw [← hcfg]
    exact baseReg_of_first_segment htracks (by omega)
  rw [hzero] at hlaid
  refine ⟨ended ch c t, by rw [hexec]; rfl, headLeft_of_parts hbegun hlaid hwf hwf' hbase hnodup, fun hc => ?_⟩
  subst hc
  rw [← hcfg, ended_lenReg_true hwf', hcycle]

end Head

/-! ## A continuation frame -/

section Body

variable {ch : Channel} {s : State}

theorem execAll_endIf {first last : Instr} (hlast : ∀ t, exec last t = .next (segEnd ch t)) (c : Bool) (s : State) :
    execAll (first :: if c then [last] else []) s = onNext (exec first s) (endIf ch c) := by
  have hend : execAll (if c then [last] else []) = endIf ch c := by
    funext t
    cases c with
    | false => rfl
    | true => exact (StreamLength.execAll_single last t).trans (hlast t)
  rw [execAll, hend]

/-- A write of up to a segment completes, at any counter where it may start. -/
theorem segWrite_completes {n : BitVec 16} (src : List Word) (hn : n.toNat ≤ ch.size)
    (hcyc : ch = .mod → (ch.cycle s).toNat % 2 = 0) : ∃ t, segWrite ch n src s = .next t := by
  by_cases hzero : n = 0#16
  · subst hzero
    exact ⟨_, segWrite_zero ch src s⟩
  · exact ⟨_, segWrite_run src (by omega) hzero hcyc⟩

end Body

/-! ## Modulation frames -/

section Mod

variable {h : Header}

theorem payloadByte_eq_getD (h : Header) (d : Nat) {i : Nat} (hi : i < 124) :
    payloadByte h d i = h.payload.toList.getD i 0#8 := by simp [payloadByte, elemOr, hi]

/-- The samples of a frame, two a word, where they lie inside the payload. -/
theorem modWords_eq (h : Header) (d start n : Nat) (hfit : start + 2 * ((n + 1) / 2) ≤ 124) :
    modWords h d start n = (List.range ((n + 1) / 2)).map fun i =>
      h.payload.toList.getD (start + 2 * i + 1) 0#8 ++ h.payload.toList.getD (start + 2 * i) 0#8 := by
  refine List.map_congr_left fun i hi => ?_
  have hlt := List.mem_range.1 hi
  simp only [Config.modSamplesPerWord] at hlt
  rw [payloadByte_eq_getD h d (by omega), payloadByte_eq_getD h d (by omega), wordOf]

theorem getD_map_range {n i : Nat} (f : Nat → Word) (hi : i < n) : ((List.range n).map f).getD i 0#16 = f i := by
  simp [hi]

theorem loHalf_modDivisor (h : Header) (d : Nat) : loHalf (modDivisor h d) = h.payload[1] ++ h.payload[0] := by
  rw [modDivisor, ApplyEngine.payloadByte_of_lt h d (i := 0) (by decide),
    ApplyEngine.payloadByte_of_lt h d (i := 1) (by decide)]
  exact BitVec.extractLsb'_append_eq_right

theorem hiHalf_modDivisor (h : Header) (d : Nat) : hiHalf (modDivisor h d) = h.payload[3] ++ h.payload[2] := by
  rw [modDivisor, ApplyEngine.payloadByte_of_lt h d (i := 2) (by decide),
    ApplyEngine.payloadByte_of_lt h d (i := 3) (by decide)]
  exact BitVec.extractLsb'_append_eq_left

theorem toNat_size (h : Header) : (h.size.zeroExtend 16).toNat = h.size.toNat := by
  rw [BitVec.zeroExtend_eq_setWidth, BitVec.toNat_setWidth, Nat.mod_eq_of_lt (h.size.isLt.trans (by decide))]

end Mod

/-- The registers of a modulation head frame (42_mod_writer.md rule R184). -/
def modHeadRegs (s : State) : List (Word × Word) :=
  [(s.cfg.aModFreqDiv0, s.qStage.hdr.payload[1] ++ s.qStage.hdr.payload[0]),
   (s.cfg.aModFreqDiv1, s.qStage.hdr.payload[3] ++ s.qStage.hdr.payload[2])]

theorem begun_mod (s : State) : Begun .mod (modHeadRegs s) s { beginMod s with draws := s.draws + 1 } := by
  obtain ⟨m, b, hshape, -⟩ := beginMod_shape s
  have hcycle : (beginMod s).modCycle = 0#32 := by rw [hshape]
  have hwrote : Wrote .q (regWrites ((Channel.mod.baseReg s.cfg, 0#16) :: modHeadRegs s)) s (beginMod s) := by
    rw [beginMod, loHalf_modDivisor, hiHalf_modDivisor]
    exact (wrote_segBegin .mod s).trans (wrote_bramWrites ..)
  exact ⟨hwrote.of_eq rfl rfl rfl, hcycle⟩

theorem modHeadRegs_nodup {s : State} (hc : s.cfg.Valid) :
    (Channel.mod.baseReg s.cfg :: Channel.mod.lenReg s.cfg :: (modHeadRegs s).map Prod.fst).Nodup := by
  have hregs := DeviceTables.singleRegs_nodup hc
  simp only [Params.singleRegs, List.nodup_cons, List.mem_cons, not_or] at hregs
  simp only [Channel.baseReg, Channel.lenReg, modHeadRegs, List.map_cons, List.map_nil, List.nodup_cons, List.mem_cons,
    not_or]
  tauto

/-- Settles O44. -/
theorem modHeadFrameStartsTheStream : Obligations.ModHeadFrameStartsTheStream := by
  intro s hc hwf hhead hsize
  have hfit := toNat_size s.qStage.hdr
  have hwords := modWords_eq s.qStage.hdr s.draws 4 s.qStage.hdr.size.toNat (by omega)
  obtain ⟨t, hexec, hleft, hlen⟩ := head_stream (n := s.qStage.hdr.size.zeroExtend 16)
    (src := modWords s.qStage.hdr s.draws 4 s.qStage.hdr.size.toNat) (c := qHas s s.cfg.cpuModEnd) (begun_mod s) hwf
    (modHeadRegs_nodup hc) nofun (by rw [hfit, hwords]; simp [unitWords]) (by rw [hfit, size_mod]; omega)
  have hrun : exec .aWriteMod s = .next t := by
    rw [← hexec]
    change execAWriteMod s = _
    rw [execAWriteMod, hhead]
    rfl
  obtain ⟨m, b, hshape, -⟩ := execAWriteMod_shape s t hrun
  rw [hhead, if_pos rfl, BitVec.zero_add] at hshape
  have hcfg : t.cfg = s.cfg := by rw [hshape]
  refine ⟨t, hrun, ?_, ?_, hleft.regs _ _ (by simp [modHeadRegs]), hleft.regs _ _ (by simp [modHeadRegs]), fun i hi => ?_,
    fun hend => ?_, hleft.length_of_not, ?_⟩
  · rw [hshape]
  · rw [State.modBase, hcfg]
    exact hleft.base
  · have hword := hleft.words (i, _) (mem_unitsAt_mod.2 ⟨i, by rwa [hfit], by simp only [Nat.zero_div, Nat.zero_add]; rfl⟩)
    rw [hwords, getD_map_range _ hi] at hword
    rw [← Nat.zero_add (2 * i), deviceWord_mod, Nat.zero_div, Nat.zero_add, Nat.zero_add]
    exact hword
  · rw [← hfit]
    exact hlen hend
  · refine sameBytesOutside_mono hleft.frame fun x hx => ?_
    have hsub := wordBytes_mod (c := 0) (m := (s.qStage.hdr.size.zeroExtend 16).toNat)
      (f := fun i => (modWords s.qStage.hdr s.draws 4 s.qStage.hdr.size.toNat).getD i 0#16)
    rw [hfit] at hsub hx
    simp only [List.mem_append, regsBytes, modHeadRegs, List.flatMap_cons, List.flatMap_nil, List.not_mem_nil] at hx ⊢
    have hunits := @hsub x
    tauto

/-- Settles O45. -/
theorem modBodyFrameAppends : Obligations.ModBodyFrameAppends := by
  intro s hbody hsize
  have hwords := modWords_eq s.qStage.hdr s.draws 0 s.qStage.hdr.size.toNat (by omega)
  have hframe : exec .aWriteMod s = onNext (segWrite .mod (s.qStage.hdr.size.zeroExtend 16)
      (modWords s.qStage.hdr s.draws 0 s.qStage.hdr.size.toNat) { s with draws := s.draws + 1 })
      (endIf .mod (qHas s s.cfg.cpuModEnd)) := by
    change execAWriteMod s = _
    rw [execAWriteMod, hbody]
    rfl
  refine ⟨?_, fun heven => ?_⟩
  · rw [hframe, execAll_endIf (ch := .mod) fun _ => rfl, hwords]
    simp only [Nat.zero_add]
    rfl
  · obtain ⟨t, hwrite⟩ := segWrite_completes (ch := .mod) (s := { s with draws := s.draws + 1 })
      (modWords s.qStage.hdr s.draws 0 s.qStage.hdr.size.toNat) (n := s.qStage.hdr.size.zeroExtend 16)
      (by rw [toNat_size, size_mod]; omega) (fun _ => heven)
    rw [hwrite] at hframe
    obtain ⟨m, b, hshape, -⟩ := execAWriteMod_shape s _ hframe
    rw [hbody] at hshape
    exact ⟨_, hframe, congrArg State.modCycle hshape⟩

/-! ## Point frames -/

section Point

variable {s : State} {n : Word}

theorem length_pointWords (b : List Word) (d start n : Nat) : (pointWords b d start n).length = 4 * n := by
  simp [pointWords, Config.pstmWords]

theorem getD_pointWords {b : List Word} {start n k : Nat} (d : Nat) (hfit : start + 4 * n ≤ b.length) (hk : k < 4 * n) :
    (pointWords b d start n).getD k 0#16 = b.getD (start + k) 0#16 := by
  have hword := getD_map_range (n := 4 * n) (fun k => bodyWord b d (start + k)) hk
  exact hword.trans (GainBuilders.bodyWord_of_lt d (by omega))

/-- The samples of a frame that lie inside the Body (30_encoding.md rule R97). -/
theorem pointWords_eq {b : List Word} {start n : Nat} (d : Nat) (hfit : start + 4 * n ≤ b.length) :
    pointWords b d start n = (b.drop start).take (4 * n) := by
  refine List.ext_getElem (by rw [length_pointWords, List.length_take, List.length_drop]; omega) fun k hk hk' => ?_
  have hlt : k < 4 * n := by rwa [length_pointWords] at hk
  have hword := getD_pointWords d hfit hlt
  rw [List.getD_eq_getElem _ _ hk, List.getD_eq_getElem _ _ (by omega)] at hword
  rw [hword, List.getElem_take, List.getElem_drop]

theorem bodyWord_zero {b : List Word} (d : Nat) (h : b.head? = some n) : bodyWord b d 0 = n := by
  obtain ⟨rest, rfl⟩ := List.head?_eq_some_iff.1 h
  rfl

end Point

/-- The registers of a point head frame (43_point_writer.md rule R199). -/
def pointHeadRegs (s : State) : List (Word × Word) :=
  [(s.cfg.aStmFreqDiv0, s.qStage.body.getD 1 0#16), (s.cfg.aStmFreqDiv1, s.qStage.body.getD 2 0#16),
   (s.cfg.aSoundSpeed0, s.qStage.body.getD 3 0#16), (s.cfg.aSoundSpeed1, s.qStage.body.getD 4 0#16)]

theorem begun_point {s : State} (hbody : 5 ≤ s.qStage.body.length) :
    Begun .pstm (pointHeadRegs s) s { beginPoint s with draws := s.draws + 1 } := by
  obtain ⟨m, b, hshape, -⟩ := beginPoint_shape s
  have hcycle : (beginPoint s).stmCycle = 0#32 := by rw [hshape]
  have hword (i : Nat) (hi : i < 5) : bodyWord s.qStage.body s.draws i = s.qStage.body.getD i 0#16 :=
    GainBuilders.bodyWord_of_lt _ (by omega)
  have hwrote : Wrote .q (regWrites ((Channel.pstm.baseReg s.cfg, 0#16) :: pointHeadRegs s)) s (beginPoint s) := by
    rw [beginPoint, hword 1 (by decide), hword 2 (by decide), hword 3 (by decide), hword 4 (by decide)]
    exact (wrote_segBegin .pstm s).trans (wrote_bramWrites ..)
  exact ⟨hwrote.of_eq rfl rfl rfl, hcycle⟩

theorem pointHeadRegs_nodup {s : State} (hc : s.cfg.Valid) :
    (Channel.pstm.baseReg s.cfg :: Channel.pstm.lenReg s.cfg :: (pointHeadRegs s).map Prod.fst).Nodup := by
  have hregs := DeviceTables.singleRegs_nodup hc
  simp only [Params.singleRegs, List.nodup_cons, List.mem_cons, not_or] at hregs
  simp only [Channel.baseReg, Channel.lenReg, pointHeadRegs, List.map_cons, List.map_nil, List.nodup_cons, List.mem_cons,
    not_or]
  tauto

/-- Settles O49. -/
theorem pointHeadFrameStartsTheStream : Obligations.PointHeadFrameStartsTheStream := by
  intro s n hc hwf hhead hbody hcount hfit
  obtain ⟨⟨-, hmax⟩, -⟩ := id hc
  have hn : bodyWord s.qStage.body s.draws 0 = n := bodyWord_zero _ hcount
  obtain ⟨t, hexec, hleft, hlen⟩ := head_stream (n := n) (src := pointWords s.qStage.body s.draws 5 n.toNat)
    (c := qHas s s.cfg.cpuStmEnd) (begun_point (by omega)) hwf (pointHeadRegs_nodup hc) nofun
    (length_pointWords ..) (by rw [size_pstm]; omega)
  have hrun : exec .aPointStm s = .next t := by
    rw [← hexec]
    change execAPointStm s = _
    rw [execAPointStm, hhead, hn]
    rfl
  obtain ⟨m, b, hshape, -⟩ := execAPointStm_shape s t hrun
  rw [hhead, if_pos rfl, BitVec.zero_add, hn] at hshape
  have hcfg : t.cfg = s.cfg := by rw [hshape]
  refine ⟨t, hrun, ?_, ?_, hleft.regs _ _ (by simp [pointHeadRegs]), hleft.regs _ _ (by simp [pointHeadRegs]),
    hleft.regs _ _ (by simp [pointHeadRegs]), hleft.regs _ _ (by simp [pointHeadRegs]), fun i j hi hj => ?_, hlen,
    hleft.length_of_not, ?_⟩
  · rw [hshape]
  · rw [State.stmBase, hcfg]
    exact hleft.base
  · have hword := hleft.words (8 * (0 + i) + j, _) (mem_unitsAt_pstm.2 ⟨i, j, hi, hj, rfl⟩)
    rw [getD_pointWords _ (by omega) (by omega), Nat.zero_add] at hword
    rw [deviceWord_pstm, Nat.add_assoc 5]
    exact hword
  · refine sameBytesOutside_mono hleft.frame fun x hx => ?_
    have hunits := @wordBytes_pstm 0 n.toNat (fun i => (pointWords s.qStage.body s.draws 5 n.toNat).getD i 0#16) x
    simp only [List.mem_append, regsBytes, pointHeadRegs, List.flatMap_cons, List.flatMap_nil, List.not_mem_nil] at hx ⊢
    tauto

/-- Settles O50. -/
theorem pointBodyFrameAppends : Obligations.PointBodyFrameAppends := by
  intro s n hc hhead hbody hcount hfit
  obtain ⟨⟨-, hmax⟩, -⟩ := id hc
  have hn : bodyWord s.qStage.body s.draws 0 = n := bodyWord_zero _ hcount
  have hframe : exec .aPointStm s = onNext (segWrite .pstm n (pointWords s.qStage.body s.draws 1 n.toNat)
      { s with draws := s.draws + 1 }) (endIf .pstm (qHas s s.cfg.cpuStmEnd)) := by
    change execAPointStm s = _
    rw [execAPointStm, hhead, hn]
    rfl
  refine ⟨?_, ?_⟩
  · rw [hframe, execAll_endIf (ch := .pstm) fun _ => rfl, pointWords_eq _ (by omega)]
    rfl
  · obtain ⟨t, hwrite⟩ := segWrite_completes (ch := .pstm) (s := { s with draws := s.draws + 1 })
      (pointWords s.qStage.body s.draws 1 n.toNat) (n := n) (by rw [size_pstm]; omega) nofun
    rw [hwrite] at hframe
    obtain ⟨m, b, hshape, -⟩ := execAPointStm_shape s _ hframe
    rw [hhead, hn] at hshape
    exact ⟨_, hframe, congrArg State.stmCycle hshape⟩

end Sys2Proof.FrameStreams
end

section
/-! The frames that carry gains: a head frame's registers, the passes of a body frame and the slots they reach, and the pass
that reads the cycle table while it is being replaced (44_gain_writer.md rules R215 to R222, 20_memory.md rule R79). -/

namespace Sys2Proof.FrameGains

open Sys2Proof Sys2Proof.Machine Sys2Proof.RingWriter Sys2Proof.TableLayout Sys2Proof.Drain Sys2Proof.FrameStreams
open Sys2Proof.GainBuilders

/-! ## A head frame (rule R216) -/

/-- The registers of a gain head frame. -/
def gainHeadRegs (s : State) : List (Word × Word) :=
  [(s.cfg.aStmFreqDiv0, s.qStage.body.getD 0 0#16), (s.cfg.aStmFreqDiv1, s.qStage.body.getD 1 0#16)]

theorem begun_gain {s : State} (hbody : 5 ≤ s.qStage.body.length) : Begun .gstm (gainHeadRegs s) s (beginGain s) := by
  obtain ⟨m, b, hshape, -⟩ := beginGain_shape s
  have hcycle : (beginGain s).stmCycle = 0#32 := by rw [hshape]
  have hword (i : Nat) (hi : i < 2) : bodyWord s.qStage.body s.draws i = s.qStage.body.getD i 0#16 :=
    bodyWord_of_lt _ (by omega)
  have hwrote : Wrote .q (regWrites ((Channel.gstm.baseReg s.cfg, 0#16) :: gainHeadRegs s)) s
      (bramWrites .q (pairWrites s.cfg.aStmFreqDiv0 s.cfg.aStmFreqDiv1 (bodyWord s.qStage.body s.draws 0)
        (bodyWord s.qStage.body s.draws 1)) (segBegin .gstm s)) := by
    rw [hword 0 (by decide), hword 1 (by decide)]
    exact (wrote_segBegin .gstm s).trans (wrote_bramWrites ..)
  exact ⟨hwrote.of_eq rfl rfl rfl, hcycle⟩

theorem gainHeadRegs_nodup {s : State} (hc : s.cfg.Valid) :
    (Channel.gstm.baseReg s.cfg :: Channel.gstm.lenReg s.cfg :: (gainHeadRegs s).map Prod.fst).Nodup := by
  have hregs := DeviceTables.singleRegs_nodup hc
  simp only [Params.singleRegs, List.nodup_cons, List.mem_cons, not_or] at hregs
  simp only [Channel.baseReg, Channel.lenReg, gainHeadRegs, List.map_cons, List.map_nil, List.nodup_cons, List.mem_cons,
    not_or]
  tauto

theorem baseReg_of_begun {ch : Channel} {as : List (Word × Word)} {s u : State} (h : Begun ch as s u)
    (hwf : s.mem.wf = true) (hnodup : (ch.baseReg s.cfg :: ch.lenReg s.cfg :: as.map Prod.fst).Nodup) :
    u.ctrlReg (ch.baseReg s.cfg) = 0#16 :=
  have hregs : (((ch.baseReg s.cfg, 0#16) :: as).map Prod.fst).Nodup := hnodup.sublist (.cons_cons _ (.cons _ (.refl _)))
  ctrlReg_of_regWrites h.wrote hwf hregs (List.mem_cons_self ..)

/-- Settles O51. -/
theorem gainHeadFrameSetsTheMode : Obligations.GainHeadFrameSetsTheMode := by
  intro s hc hwf hhead hbody
  obtain ⟨⟨hmin, -⟩, -⟩ := id hc
  have hbegun := begun_gain (s := s) (by omega)
  have hnodup := gainHeadRegs_nodup hc
  have hwf' := hbegun.wrote.wf hwf
  have hleft := headLeft_of_parts (c := qHas s s.cfg.cpuStmEnd) hbegun (Laid.refl .gstm _) hwf hwf'
    (baseReg_of_begun hbegun hwf hnodup) hnodup
  have hrun : exec .aGainStm s = .next (ended .gstm (qHas s s.cfg.cpuStmEnd) (beginGain s)) := by
    change execAGainStm s = _
    rw [execAGainStm, hhead]
    rfl
  obtain ⟨c, g, k, ps, m, b, hshape, -, hregs, -⟩ := execAGainStm_shape s _ hrun
  obtain ⟨rfl, rfl, rfl, rfl⟩ := hregs hhead
  rw [bodyWord_of_lt s.draws (show 2 < s.qStage.body.length by omega)] at hshape
  have hcfg : (ended .gstm (qHas s s.cfg.cpuStmEnd) (beginGain s)).cfg = s.cfg := by rw [hshape]
  refine ⟨_, hrun, ?_, ?_, hleft.regs _ _ (by simp [gainHeadRegs]), hleft.regs _ _ (by simp [gainHeadRegs]), fun hend => ?_,
    hleft.length_of_not, ?_⟩
  · rw [hshape]
  · rw [State.stmBase, hcfg]
    exact hleft.base
  · have hlen := ended_lenReg_true (ch := .gstm) hwf'
    rw [hbegun.cycle, hbegun.wrote.cfg] at hlen
    rw [hend]
    exact hlen
  · refine LastWrites.sameBytesOutside_mono hleft.frame fun x hx => ?_
    simp only [List.mem_append, regsBytes, gainHeadRegs, List.flatMap_cons, List.flatMap_nil, List.not_mem_nil,
      wordBytes] at hx ⊢
    tauto

/-! ## A body frame (rules R216, R217 and R221) -/

section Body

variable {s : State}

/-- The cycles that the builder of the retained mode gives (rule R221). -/
def cyclesOf (s : State) : Nat :=
  if s.gainMode = s.cfg.gdmPhaseFull then (if qLegacy s then 2 else if qIsDuty s then 0 else 1)
  else if s.gainMode = s.cfg.gdmPhaseHalf then (if qLegacy s then 4 else 0) else 1

theorem length_gainPassesOf (s : State) : (gainPassesOf (gainModeOf s.cfg s.gainMode) s).length = cyclesOf s := by
  rw [gainModeOf, cyclesOf]
  split_ifs with hpf hleg hduty hph hleg'
  · rw [gainPassesOf_pf, hleg, phaseFullPasses_legacy]
    rfl
  · rw [gainPassesOf_pf, Bool.eq_false_iff.2 hleg, hduty, phaseFullPasses_duty]
    rfl
  · rw [gainPassesOf_pf, Bool.eq_false_iff.2 hleg, Bool.eq_false_iff.2 hduty, phaseFullPasses_pair]
    rfl
  · rw [gainPassesOf_ph, hleg', phaseHalfPasses_legacy]
    simp
  · rw [gainPassesOf_ph, Bool.eq_false_iff.2 hleg', phaseHalfPasses_nonlegacy]
    rfl
  · obtain ⟨p, hp⟩ := phaseDutyFullPasses_single s.cfg (bodyWord s.qStage.body s.draws) (qLegacy s) (qIsDuty s)
    rw [gainPassesOf_pdf, hp]
    rfl

/-- The builder of the retained mode; an unrecognised mode runs G.PHASE_DUTY_FULL (rule R217). -/
theorem exec_builder (s : State) :
    exec (if s.gainMode = s.cfg.gdmPhaseFull then .gPhaseFull
      else if s.gainMode = s.cfg.gdmPhaseHalf then .gPhaseHalf else .gPhaseDutyFull) s =
        .next (latchPasses (gainModeOf s.cfg s.gainMode) s) := by
  rw [gainModeOf]
  split_ifs <;> rfl

theorem exec_gainBody (hbody : qHas s s.cfg.cpuStmBegin = false) :
    exec .aGainStm s = onNext (gainBody s) (endIf .gstm (qHas s s.cfg.cpuStmEnd)) := by
  change execAGainStm s = _
  rw [execAGainStm, hbody]
  rfl

end Body

/-- Settles O52. -/
theorem gainBodyFrameAdvances : Obligations.GainBodyFrameAdvances := by
  intro s hbody
  obtain ⟨t, ht⟩ := Stops.gainBody_next s
  have hrun := exec_gainBody hbody
  have hnext : exec .aGainStm s = .next (ended .gstm (qHas s s.cfg.cpuStmEnd) t) := by
    rw [hrun, ht]
    rfl
  obtain ⟨c, g, k, ps, m, b, hshape, -, -, hregs⟩ := execAGainStm_shape s _ hnext
  obtain ⟨rfl, rfl, rfl, rfl⟩ := hregs hbody
  refine ⟨cyclesOf s, latchPasses (gainModeOf s.cfg s.gainMode) s, _, rfl, exec_builder s, ?_, ?_, hnext, ?_⟩
  · exact congrArg (BitVec.ofNat 16) (length_gainPassesOf s)
  · rw [execAll_endIf (ch := .gstm) fun _ => rfl]
    exact hrun
  · refine (congrArg State.stmCycle hshape).trans (congrArg (s.stmCycle + ·) ?_)
    have hfour := gainPassesOf_length (gainModeOf s.cfg s.gainMode) s
    apply BitVec.eq_of_toNat_eq
    rw [length_gainPassesOf] at hfour ⊢
    rw [BitVec.zeroExtend_eq_setWidth, BitVec.toNat_setWidth, BitVec.toNat_ofNat, BitVec.toNat_ofNat]
    omega

/-! ## The passes of the builders ascend (rules R212 and R215) -/

section Ascending

variable {c : Params}

theorem ascending_of_pairwise {p : Pass} (h : p.Pairwise fun x y => x.1.toNat < y.1.toNat) :
    Pass.ascending p = true := by
  induction p with
  | nil => rfl
  | cons x p ih =>
    obtain ⟨hx, hp⟩ := List.pairwise_cons.1 h
    cases p with
    | nil => rfl
    | cons y rest =>
      have hxy : x.1.ult y.1 = true := by
        simpa [BitVec.ult] using hx y (List.mem_cons_self ..)
      exact Bool.and_eq_true_iff.2 ⟨hxy, ih hp⟩

theorem toNat_slotOffset {o : Nat} (h : o < 512) : (slotOffset o).toNat = o := by
  rw [slotOffset, BitVec.toNat_ofNat]
  exact Nat.mod_eq_of_lt h

theorem pairwise_range_of_lt {n : Nat} {R : Nat → Nat → Prop} (h : ∀ i j, i < j → j < n → R i j) :
    (List.range n).Pairwise R :=
  List.pairwise_lt_range.imp_of_mem fun _ hj hlt => h _ _ hlt (List.mem_range.1 hj)

theorem legacyPass_ascending (hc : c.Valid) (word : Nat → Word) : Pass.ascending (legacyPass c word) = true := by
  obtain ⟨-, -, -, -, -, -, -, -, hstride, -⟩ := hc
  have hpos : 0 < c.legacyStride.toNat := by cases c.legacyStride <;> decide
  have hslot : ∀ i < c.n, c.legacyStride.toNat * i < 512 := fun i hi =>
    (Nat.mul_le_mul_left _ (by omega : i ≤ c.n - 1)).trans_lt hstride
  refine ascending_of_pairwise (List.pairwise_map.2 (pairwise_range_of_lt fun i j hij hj => ?_))
  rw [toNat_slotOffset (hslot i (hij.trans hj)), toNat_slotOffset (hslot j hj)]
  exact Nat.mul_lt_mul_of_pos_left hij hpos

theorem pairPass_ascending (hn : c.n ≤ 256) (phase duty : Nat → Word) :
    Pass.ascending (pairPass c phase duty) = true := by
  refine ascending_of_pairwise (List.pairwise_flatMap.2 ⟨fun i hi => ?_, pairwise_range_of_lt fun i j hij hj => ?_⟩)
  · have hlt := List.mem_range.1 hi
    refine List.pairwise_pair.2 ?_
    rw [toNat_slotOffset (by omega), toNat_slotOffset (by omega)]
    omega
  · simp only [List.forall_mem_cons, List.not_mem_nil, false_imp_iff, implies_true, and_true]
    rw [toNat_slotOffset (by omega), toNat_slotOffset (by omega), toNat_slotOffset (by omega),
      toNat_slotOffset (by omega)]
    omega

end Ascending

/-! ## The slots of a body frame (rule R222) -/

section Slots

variable {s : State}

/-- A body frame that ends no stream puts the words of its passes into their slots. -/
theorem gainBody_slots {ps : List Pass} {n : Nat} (hwf : s.mem.wf = true) (hbody : qHas s s.cfg.cpuStmBegin = false)
    (hend : qHas s s.cfg.cpuStmEnd = false) (hps : gainPassesOf (gainModeOf s.cfg s.gainMode) s = ps) (hn : ps.length = n)
    (hfour : n ≤ 4) (hasc : ps.all Pass.ascending = true) :
    ∃ t, exec .aGainStm s = .next t ∧ t.stmCycle = s.stmCycle + BitVec.ofNat 32 n ∧
      ∀ k p x, ps[k]? = some p → x ∈ p → t.mem.readWord (s.byteAddr (slotLoc s.stmCycle k x.1)) = x.2 := by
  have hcount : (BitVec.ofNat 16 n).toNat = n := by
    rw [BitVec.toNat_ofNat]
    omega
  have hwide : (BitVec.ofNat 16 n).zeroExtend 32 = BitVec.ofNat 32 n := by
    apply BitVec.eq_of_toNat_eq
    rw [BitVec.zeroExtend_eq_setWidth, BitVec.toNat_setWidth, hcount, BitVec.toNat_ofNat]
  obtain ⟨-, hfills⟩ := GainSlots.gainWriteFillsSlots (latchPasses (gainModeOf s.cfg s.gainMode) s) (BitVec.ofNat 16 n) ps
  obtain ⟨t, hexec, hshape, -, hwords, -⟩ := hfills hwf (by omega) (by omega) hasc
  have hgain : gainBody s = .next t := by
    rw [gainBody, latchPasses_of_passes hps hn]
    rw [latchPasses_of_passes hps hn] at hexec
    exact hexec
  refine ⟨t, ?_, ?_, hwords⟩
  · rw [exec_gainBody hbody, hgain, hend]
    rfl
  · rw [← hwide]
    exact congrArg State.stmCycle hshape

theorem mem_legacyPass {c : Params} {i : Nat} (word : Nat → Word) (hi : i < c.n) :
    (slotOffset (c.legacyStride.toNat * i), word i) ∈ legacyPass c word :=
  List.mem_map.2 ⟨i, List.mem_range.2 hi, rfl⟩

theorem mem_pairPass {c : Params} {i : Nat} (phase duty : Nat → Word) (hi : i < c.n) :
    (slotOffset (2 * i), phase i) ∈ pairPass c phase duty ∧ (slotOffset (2 * i + 1), duty i) ∈ pairPass c phase duty :=
  ⟨List.mem_flatMap.2 ⟨i, List.mem_range.2 hi, List.mem_cons_self ..⟩,
    List.mem_flatMap.2 ⟨i, List.mem_range.2 hi, List.mem_cons_of_mem _ (List.mem_cons_self ..)⟩⟩

theorem gainModeOf_half {c : Params} (hc : c.Valid) : gainModeOf c c.gdmPhaseHalf = .ph := by
  obtain ⟨-, -, -, -, -, -, -, hmodes, -⟩ := hc
  simp only [List.pairwise_cons, List.mem_cons, List.not_mem_nil, or_false, forall_eq_or_imp, forall_eq] at hmodes
  obtain ⟨-, hne, -⟩ := hmodes
  rw [gainModeOf, if_neg (Ne.symm hne), if_pos rfl]

theorem gainModeOf_dutyFull {c : Params} (hc : c.Valid) : gainModeOf c c.gdmPhaseDutyFull = .pdf := by
  obtain ⟨-, -, -, -, -, -, -, hmodes, -⟩ := hc
  simp only [List.pairwise_cons, List.mem_cons, List.not_mem_nil, or_false, forall_eq_or_imp, forall_eq] at hmodes
  obtain ⟨⟨hpf, hph⟩, -⟩ := hmodes
  rw [gainModeOf, if_neg hpf, if_neg hph]

end Slots

/-- A word of G.PHASE_HALF in legacy encoding: nibble `q` of sample `i`, doubled (rule R220). -/
def halfWord (b : Nat → Word) (q i : Nat) : Word := BitVec.ofNat 16 (0xFF00 + (b i).toNat / 16 ^ q % 16 * 17)

/-- The four passes of G.PHASE_HALF in legacy encoding. -/
def halfPasses (c : Params) (b : Nat → Word) : List Pass := (List.range 4).map fun q => legacyPass c (halfWord b q)

theorem gainPassesOf_half {s : State} (hc : s.cfg.Valid) (hmode : s.gainMode = s.cfg.gdmPhaseHalf)
    (hleg : qLegacy s = true) :
    gainPassesOf (gainModeOf s.cfg s.gainMode) s = halfPasses s.cfg (bodyWord s.qStage.body s.draws) := by
  rw [hmode, gainModeOf_half hc, gainPassesOf_ph, hleg, phaseHalfPasses_legacy]
  rfl

theorem halfPasses_ascending {c : Params} (hc : c.Valid) (b : Nat → Word) :
    (halfPasses c b).all Pass.ascending = true := by
  refine List.all_eq_true.2 fun p hp => ?_
  obtain ⟨q, -, rfl⟩ := List.mem_map.1 hp
  exact legacyPass_ascending hc _

theorem getElem?_halfPasses {c : Params} {q : Nat} (b : Nat → Word) (hq : q < 4) :
    (halfPasses c b)[q]? = some (legacyPass c (halfWord b q)) := by
  rw [halfPasses, List.getElem?_map, List.getElem?_range hq]
  rfl

/-- Settles O53. -/
theorem gainFrameWordsReachTheirSlots : Obligations.GainFrameWordsReachTheirSlots := by
  intro s hc hwf hbody hend hlen
  obtain ⟨⟨-, hmax⟩, -⟩ := id hc
  have hword : ∀ i < s.cfg.n, bodyWord s.qStage.body s.draws i = s.qStage.body.getD i 0#16 := fun i hi =>
    bodyWord_of_lt _ (hlen.symm ▸ hi)
  refine ⟨fun hmode hleg => ?half, fun hmode hleg hduty => ?full⟩
  case half =>
    obtain ⟨t, hexec, hcycle, hslots⟩ := gainBody_slots hwf hbody hend (gainPassesOf_half hc hmode hleg) (n := 4) rfl
      (by decide) (halfPasses_ascending hc _)
    refine ⟨t, hexec, hcycle, fun q i hq hi => ?_⟩
    have hslot := hslots q _ _ (getElem?_halfPasses _ hq)
      (mem_legacyPass (halfWord (bodyWord s.qStage.body s.draws) q) hi)
    rw [halfWord, hword i hi] at hslot
    exact hslot
  case full =>
    have hps : gainPassesOf (gainModeOf s.cfg s.gainMode) s =
        [pairPass s.cfg (fun i => Config.phaseOf (bodyWord s.qStage.body s.draws i))
          fun i => Config.dutyOf (bodyWord s.qStage.body s.draws i)] := by
      rw [hmode, gainModeOf_dutyFull hc, gainPassesOf_pdf, hleg, hduty, phaseDutyFullPasses_pair]
    obtain ⟨t, hexec, hcycle, hslots⟩ := gainBody_slots hwf hbody hend hps (n := 1) rfl (by decide)
      (by simp [pairPass_ascending hmax])
    refine ⟨t, hexec, hcycle, fun i hi => ?_⟩
    obtain ⟨hphase, hdutyWord⟩ := mem_pairPass (fun i => Config.phaseOf (bodyWord s.qStage.body s.draws i))
      (fun i => Config.dutyOf (bodyWord s.qStage.body s.draws i)) hi
    have heven := hslots 0 _ _ rfl hphase
    have hodd := hslots 0 _ _ rfl hdutyWord
    rw [hword i hi] at heven hodd
    exact ⟨heven, hodd⟩

/-! ## The cycle table while it is replaced (20_memory.md rule R79) -/

section Race

variable {α : Type}

/-- A list of pairs, by position. -/
theorem getElem?_pairs (l : List Nat) (f g : Nat → α) (k : Nat) :
    (l.flatMap fun i => [f i, g i])[2 * k]? = l[k]?.map f ∧
      (l.flatMap fun i => [f i, g i])[2 * k + 1]? = l[k]?.map g := by
  induction l generalizing k with
  | nil => simp
  | cons a l ih =>
    cases k with
    | zero => simp
    | succ k => simpa [Nat.mul_add] using ih k

theorem getElem?_pairPass {c : Params} {i : Nat} (phase duty : Nat → Word) (hi : i < c.n) :
    (pairPass c phase duty)[2 * i]? = some (slotOffset (2 * i), phase i) ∧
      (pairPass c phase duty)[2 * i + 1]? = some (slotOffset (2 * i + 1), duty i) := by
  obtain ⟨hfirst, hsecond⟩ := getElem?_pairs (List.range c.n) (fun i => (slotOffset (2 * i), phase i))
    (fun i => (slotOffset (2 * i + 1), duty i)) i
  rw [List.getElem?_range hi] at hfirst hsecond
  exact ⟨hfirst, hsecond⟩

theorem length_pairPass (c : Params) (phase duty : Nat → Word) : (pairPass c phase duty).length = 2 * c.n := by
  simp [pairPass, List.length_flatMap, Nat.mul_comm]

/-- While a synchronize is under way, an element reads as it was or as it will be. -/
theorem tableWord_of_race {s : State} {old : List Word} {i : Nat} (hold : s.tabOld = some old) (hi : i < old.length)
    (hi' : i < s.cycleTab.length) :
    tableWord s i = old.getD i 0#16 ∨ tableWord s i = s.cycleTab.getD i 0#16 := by
  simp only [tableWord, hold, tableElem, elemOr]
  split
  · exact .inl (by simp [hi])
  · exact .inr (by simp [hi'])

end Race

/-- Settles O55. -/
theorem cycleTableRaceGivesOldOrNew : Obligations.CycleTableRaceGivesOldOrNew := by
  intro s old hold hlenOld hlenTab hlenBody hleg hduty
  have hps : gainPassesOf .pf s = [pairPass s.cfg (bodyWord s.qStage.body s.draws)
      fun i => Config.defaultDuty (tableWord s i)] := by
    rw [gainPassesOf_pf, hleg, hduty, phaseFullPasses_pair]
  refine ⟨_, (exec_gPhaseFull s).trans (congrArg _ (latchPasses_of_passes hps rfl)), length_pairPass .., fun i hi => ?_⟩
  obtain ⟨hphase, hdutyWord⟩ := getElem?_pairPass (bodyWord s.qStage.body s.draws)
    (fun i => Config.defaultDuty (tableWord s i)) hi
  rw [bodyWord_of_lt s.draws (hlenBody.symm ▸ hi)] at hphase
  refine ⟨hphase, ?_⟩
  obtain hrow | hrow := tableWord_of_race hold (hlenOld.symm ▸ hi) (hlenTab.symm ▸ hi)
  · exact .inl (by rw [← hrow]; exact hdutyWord)
  · exact .inr (by rw [← hrow]; exact hdutyWord)

end Sys2Proof.FrameGains
end
